-- ==== Sys2Proof/Word.lean ====
section
/-! DEFINITION. The word and byte of the block (00_scope.md R7): registers and command words are 32 bits, bitmap bytes are 8 bits. -/

namespace Sys2Proof

/-- A register, a command word, or the data of a Host access: 32 bits, bit 0 least significant (R7, R8). -/
abbrev Word := BitVec 32

/-- One byte of the bitmap buffer (R7). -/
abbrev Byte := BitVec 8

end Sys2Proof
end

