-- ==== Sys2Proof/Syntax.lean ====
section
/-! DEFINITION. The commands of the block: one constructor for each row of spec/opcode_table.json (30_encoding.md R66). -/

namespace Sys2Proof

/-- A command. The operands are the 4-bit fields of CMD32 (R64, R65): `d` the destination slot, `a` and `b` the
source slots, `k` the ROM kernel id of LDK. A field that the command does not use is no operand (R66). -/
inductive Instr where
  /-- NOP (R83). -/
  | nop
  /-- CONV d, a, b: 2D convolution of slot `b` by the kernel in slot `a` (R85). -/
  | conv (d a b : BitVec 4)
  /-- SUM d, a, b: elementwise addition (R92). -/
  | sum (d a b : BitVec 4)
  /-- SQR d, a: elementwise square (R93). -/
  | sqr (d a : BitVec 4)
  /-- ISQRT d, a: elementwise integer square root (R94). -/
  | isqrt (d a : BitVec 4)
  /-- REVR d, a: reverse the order of the rows (R96). -/
  | revr (d a : BitVec 4)
  /-- DECODE d: decode the bitmap buffer (R98). -/
  | decode (d : BitVec 4)
  /-- LDK d, k: load ROM kernel `k` (R105). -/
  | ldk (d k : BitVec 4)
  /-- SOBEL d, a: Sobel gradient magnitude (R106). -/
  | sobel (d a : BitVec 4)
  /-- HOUGH d, a: the line-detection variant that is not implemented (R107). -/
  | hough (d a : BitVec 4)
deriving DecidableEq, Repr

end Sys2Proof
end

