-- ==== Sys2Proof/Decode.lean ====
section
/-! DEFINITION. From a command word to a command and back (30_encoding.md R64 to R70). -/

namespace Sys2Proof

/-- Why a word is illegal (the three conditions of R68). All three end the command with ILLEGAL_OPCODE, so which of
several applicable names the decoder gives has no effect on the machine (log entry 14). -/
inductive IllegalWord where
  /-- `w[7:0] >= 0x0A` (R68 item 1). -/
  | reservedOpcode
  /-- `w[31:20] != 0` (R68 item 2). -/
  | reservedBits
  /-- A field that the opcode does not use is non-zero (R68 item 3). -/
  | unusedField
deriving DecidableEq, Repr

/-- What a word spells: exactly one command, or an illegal word (R69). -/
inductive Decoded where
  | command (i : Instr)
  | illegal (why : IllegalWord)
deriving DecidableEq, Repr

/-- OPC, bits 7:0 (R64). -/
def opcField (w : Word) : BitVec 8 := w.extractLsb' 0 8
/-- D, bits 11:8 (R64). -/
def dField (w : Word) : BitVec 4 := w.extractLsb' 8 4
/-- A, bits 15:12 (R64). -/
def aField (w : Word) : BitVec 4 := w.extractLsb' 12 4
/-- B, bits 19:16 (R64). -/
def bField (w : Word) : BitVec 4 := w.extractLsb' 16 4
/-- Z, bits 31:20, reserved (R64). -/
def zField (w : Word) : BitVec 12 := w.extractLsb' 20 12

/-- The command `i` where the fields it does not use are 0 (R65, R68 item 3). -/
def whenUnused (zero : Bool) (i : Instr) : Decoded :=
  if zero then .command i else .illegal .unusedField

/-- The opcode map (R66), for a word whose reserved bits are 0. -/
def decodeOpcode (opc : BitVec 8) (d a b : BitVec 4) : Decoded :=
  match opc.toNat with
  | 0x00 => whenUnused (d == 0 && a == 0 && b == 0) .nop
  | 0x01 => .command (.conv d a b)
  | 0x02 => .command (.sum d a b)
  | 0x03 => whenUnused (b == 0) (.sqr d a)
  | 0x04 => whenUnused (b == 0) (.isqrt d a)
  | 0x05 => whenUnused (b == 0) (.revr d a)
  | 0x06 => whenUnused (a == 0 && b == 0) (.decode d)
  | 0x07 => whenUnused (b == 0) (.ldk d a)
  | 0x08 => whenUnused (b == 0) (.sobel d a)
  | 0x09 => whenUnused (b == 0) (.hough d a)
  | _ => .illegal .reservedOpcode

/-- The decoder, total on every word (R69). -/
def decode (w : Word) : Decoded :=
  if zField w = 0 then decodeOpcode (opcField w) (dField w) (aField w) (bField w)
  else .illegal .reservedBits

/-- The decoder on a row of the opcode table: the command is one 32-bit word (R70), whose bits above `nbits` are 0. -/
def decodeTableWord (nbits w : Nat) : Option Instr :=
  match decode (BitVec.ofNat 32 (w % 2 ^ nbits)) with
  | .command i => some i
  | .illegal _ => none

/-- The format CMD32 with Z = 0: `(B << 16) | (A << 12) | (D << 8) | OPC` (R64). -/
def cmd32 (b a d : BitVec 4) (opc : BitVec 8) : Word :=
  0#12 ++ b ++ a ++ d ++ opc

/-- The operation code of a command (R66). -/
def opcode : Instr → BitVec 8
  | .nop => 0x00
  | .conv _ _ _ => 0x01
  | .sum _ _ _ => 0x02
  | .sqr _ _ => 0x03
  | .isqrt _ _ => 0x04
  | .revr _ _ => 0x05
  | .decode _ => 0x06
  | .ldk _ _ => 0x07
  | .sobel _ _ => 0x08
  | .hough _ _ => 0x09

/-- The encoder: the one word of a command (R64, R66). -/
def encode : Instr → Word
  | .nop => cmd32 0 0 0 (opcode .nop)
  | .conv d a b => cmd32 b a d (opcode (.conv d a b))
  | .sum d a b => cmd32 b a d (opcode (.sum d a b))
  | .sqr d a => cmd32 0 a d (opcode (.sqr d a))
  | .isqrt d a => cmd32 0 a d (opcode (.isqrt d a))
  | .revr d a => cmd32 0 a d (opcode (.revr d a))
  | .decode d => cmd32 0 0 d (opcode (.decode d))
  | .ldk d k => cmd32 0 k d (opcode (.ldk d k))
  | .sobel d a => cmd32 0 a d (opcode (.sobel d a))
  | .hough d a => cmd32 0 a d (opcode (.hough d a))

/-- The match column of R67. -/
def matchWord : Instr → Word
  | .nop => 0x00000000
  | .conv _ _ _ => 0x00000001
  | .sum _ _ _ => 0x00000002
  | .sqr _ _ => 0x00000003
  | .isqrt _ _ => 0x00000004
  | .revr _ _ => 0x00000005
  | .decode _ => 0x00000006
  | .ldk _ _ => 0x00000007
  | .sobel _ _ => 0x00000008
  | .hough _ _ => 0x00000009

/-- The mask column of R67. -/
def maskWord : Instr → Word
  | .nop => 0xFFFFFFFF
  | .conv _ _ _ => 0xFFF000FF
  | .sum _ _ _ => 0xFFF000FF
  | .sqr _ _ => 0xFFFF00FF
  | .isqrt _ _ => 0xFFFF00FF
  | .revr _ _ => 0xFFFF00FF
  | .decode _ => 0xFFFFF0FF
  | .ldk _ _ => 0xFFFF00FF
  | .sobel _ _ => 0xFFFF00FF
  | .hough _ _ => 0xFFFF00FF

end Sys2Proof
end

