-- ==== Sys2Proof/Config.lean ====
section
/-! DEFINITION. What an implementation of the block fixes (00_scope.md R6), and the free values: what the spec leaves unspecified, as constants without a body. -/

namespace Sys2Proof

/-- The implementation parameters of R6 and the platform's parameter of R41. They are configuration, not state (R13): every state carries the
parameters of its instance (`State.params`) and no step changes them (log entry 1). -/
structure Params where
  /-- NUM_SLOTS, the number of matrix slots. -/
  numSlots : Nat
  /-- MAX_ROWS, the largest row count a slot holds. -/
  maxRows : Nat
  /-- MAX_COLS, the largest column count a slot holds. -/
  maxCols : Nat
  /-- BMP_BUF_BYTES, the size of the bitmap byte buffer. -/
  bmpBufBytes : Nat
  /-- BASE, the address of the register window in the Host's address space, an OPEN parameter of the platform (R41, U14;
  log entry 8). -/
  base : Nat
deriving DecidableEq, Repr

/-- The legal ranges of R6. BASE is a multiple of the window's size of 0x40 bytes, so that the bits 5:0 which the block
decodes of an address (R41) are the byte offset from BASE (R40): DEDUCED, log entry 8. -/
abbrev Params.Legal (p : Params) : Prop :=
  (1 ≤ p.numSlots ∧ p.numSlots ≤ 16) ∧ (3 ≤ p.maxRows ∧ p.maxRows ≤ 65535) ∧
  (3 ≤ p.maxCols ∧ p.maxCols ≤ 65535) ∧ (0x36 ≤ p.bmpBufBytes ∧ p.bmpBufBytes ≤ 0xFFFFFFFF) ∧
  p.base % 0x40 = 0

/-- The defaults of R6. The spec gives BASE no default; 0 is the model's (DESIGN CHOICE, log entry 8). -/
def Params.default : Params :=
  { numSlots := 8, maxRows := 256, maxCols := 256, bmpBufBytes := 65590, base := 0 }

namespace Config

/-- FREE VALUE (R38, U9; log entry 2): the byte that draw number `draw` of the bitmap buffer holds at address
`addr`. A hardware reset takes a fresh draw. The spec gives it no law, so it has no body here. -/
opaque drawnByte (draw addr : Nat) : Byte

/-- FREE VALUE (R35, R39, U10; log entry 3): what PEND.word holds after the `n`-th reset turn. -/
opaque pendWordAfterReset (n : Nat) : Word

/-- FREE VALUE (R35, R39, U10; log entry 3): what PEND.stride holds after the `n`-th reset turn. -/
opaque pendStrideAfterReset (n : Nat) : Bool

end Config

end Sys2Proof
end

