-- ==== Sys2Proof/Machine/Mat.lean ====
section
/-! DEFINITION. Matrix values (00_scope.md R9): a row count, a column count and the cells, as mathematical integers. -/

namespace Sys2Proof.Machine

/-- A matrix value (R9): `cells` lists the rows from the top, each row its cells from the left. The cells are exact
integers; that a slot's cells are in the signed 32-bit range (R14) is an invariant of the state (log entry 10). -/
structure Mat where
  rows : Nat
  cols : Nat
  cells : List (List Int)
deriving DecidableEq, Repr

/-- `rows` rows of `cols` cells each: no cell outside the dimensions and none missing (R14, R15). -/
abbrev Mat.Shaped (m : Mat) : Prop :=
  m.cells.length = m.rows ∧ ∀ row ∈ m.cells, row.length = m.cols

/-- `X[i][j]` (R9). Outside the dimensions no rule reads a cell; there the function answers 0 (log entry 11). -/
def Mat.get (m : Mat) (i j : Nat) : Int :=
  (m.cells.getD i []).getD j 0

/-- `Matrix(r, c, f)` (R9). -/
def Mat.ofFn (r c : Nat) (f : Nat → Nat → Int) : Mat :=
  { rows := r, cols := c, cells := (List.range r).map fun i => (List.range c).map fun j => f i j }

/-- The empty matrix `(0, 0, -)` (R37, R86). -/
def Mat.empty : Mat :=
  { rows := 0, cols := 0, cells := [] }

/-- A matrix is empty when `rows = 0` or `cols = 0` (R9). -/
def Mat.isEmpty (m : Mat) : Bool :=
  decide (m.rows = 0) || decide (m.cols = 0)

/-- The all-zero matrix of the given dimensions (R50). -/
def Mat.zeros (r c : Nat) : Mat :=
  Mat.ofFn r c fun _ _ => 0

/-- `X[i][j] <- x`, every other cell unchanged (R51). -/
def Mat.set (m : Mat) (i j : Nat) (x : Int) : Mat :=
  { m with cells := m.cells.set i ((m.cells.getD i []).set j x) }

/-- `p (X[i][j])` for every row `i < X.rows` and column `j < X.cols`: the quantifier of the range and sign checks
(R85, R92 to R94, R106). -/
def Mat.all (m : Mat) (p : Int → Bool) : Bool :=
  (List.range m.rows).all fun i => (List.range m.cols).all fun j => p (m.get i j)

end Sys2Proof.Machine
end

