-- ==== Sys2Proof/Machine/State.lean ====
section
/-! DEFINITION. The state of one block instance (10_state.md R13), the Host's side of it, and the state after hardware reset. -/

namespace Sys2Proof.Machine

/-- The mapped registers, in the order of their offsets (R19). -/
inductive Reg where
  | id | cfgDim | cfgMisc | bmpCap | ctrl | status | cmd | slotSel
  | slotRows | slotCols | cellAddr | cellData | bmpLen | bmpAddr | bmpData
deriving DecidableEq, Repr

/-- The kind of a Host access (R42). -/
inductive AccessKind where
  | read
  | write
deriving DecidableEq, Repr

/-- A Host access `(kind, off, size, v)` (R42): `off` is what the block decodes of the address, bits 5:0 (R41);
`size` is the width in bytes; `v` is the written value (a read ignores it). -/
structure Access where
  kind : AccessKind
  off : BitVec 6
  size : Nat
  v : Word
deriving DecidableEq, Repr

/-- A Host access as the Host makes it: at an address of its own address space, where the block's register window stands
from BASE on (R40, R41). `MemRead` and `MemWrite` of R72 are such accesses. -/
structure BusAccess where
  kind : AccessKind
  addr : Nat
  size : Nat
  v : Word
deriving DecidableEq, Repr

/-- One turn of an execution (R59): a Host access, a hardware reset by the platform (R122), or the Engine's turn. -/
inductive Turn where
  | host (a : BusAccess)
  | hardReset
  | engine
deriving DecidableEq, Repr

/-- CTRL (R24): the two bits it stores. SOFT_RESET and the reserved bits store nothing and read 0. -/
structure Ctrl where
  irqEn : Bool
  bmpStride : Bool
deriving DecidableEq, Repr

/-- STATUS (R25): its fields. The reserved bits store nothing and read 0. -/
structure Status where
  busy : Bool
  done : Bool
  err : Bool
  hostErr : Bool
  errCode : BitVec 8
  hostErrCode : BitVec 8
deriving DecidableEq, Repr

/-- The bitmap buffer's contents: the bytes written since the last hardware reset, as (address, byte) pairs in rising
order of address. An address that is not listed has no written value; it holds the drawn byte of R38 (log entry 2). -/
abbrev Memory := List Host.Cell

/-- The state of one block (R13), the configuration it carries (R6), and the Host's side of the model. -/
structure State where
  /-- Configuration of the instance (R6, R41); no step changes it (log entry 1). -/
  params : Params
  /-- The matrix slot file `M[0..NUM_SLOTS-1]` (R14). -/
  slots : List Mat
  /-- The written bytes of BMPBUF (R17). -/
  bmp : Memory
  /-- The model's own: the number of the present draw of BMPBUF (R38; log entry 2). -/
  bmpDraw : Nat
  /-- CTRL (R24). -/
  ctrl : Ctrl
  /-- STATUS (R25). -/
  status : Status
  /-- CMD, the last accepted command word (R26). -/
  cmd : Word
  /-- SLOT_SEL.SLOT (R27). -/
  slotSel : BitVec 4
  /-- CELL_ADDR: ROW in bits 31:16, COL in bits 15:0 (R30). -/
  cellAddr : Word
  /-- BMP_LEN (R32). -/
  bmpLen : Word
  /-- BMP_ADDR (R33). -/
  bmpAddr : Word
  /-- PEND.word (R35). -/
  pendWord : Word
  /-- PEND.stride (R35). -/
  pendStride : Bool
  /-- The model's own: the number of the free value that PEND takes at the next reset turn (log entry 3). -/
  pendDraw : Nat
  /-- The model's own: what the Host and the platform will do, and the Engine's turns among it (R59; log entry 5). -/
  turns : List Turn
  /-- The model's own: the values the Host's reads have returned, newest first (R42; log entry 7). -/
  reads : List Word
deriving DecidableEq, Repr

/-- Why a step stops. No behaviour of the block is stuck (93_implementation_defined.md section 1): every command
completes and every Host access is answered, so no reason exists and no step raises one. Safe. -/
inductive Fault where
deriving DecidableEq, Repr

/-- Why a step has no meaning. -/
inductive Refusal where
  /-- Raised by an arm of `exec` whose command has no meaning yet; no arm does. Safe. -/
  | notModelled (mnemonic : String)
deriving DecidableEq, Repr

/-- CTRL after a reset: 0x00000000 (R24, R39). -/
def Ctrl.reset : Ctrl :=
  { irqEn := false, bmpStride := false }

/-- STATUS after a reset: 0x00000000 (R25, R39). -/
def Status.reset : Status :=
  { busy := false, done := false, err := false, hostErr := false, errCode := 0, hostErrCode := 0 }

/-- The state right after hardware reset (R39) of an instance with the parameters `p`. PEND is unspecified there; 0 is
the model's choice (DESIGN CHOICE, log entry 3). No Host access is listed (log entries 5 and 6). -/
def State.resetOf (p : Params) : State :=
  { params := p
    slots := List.replicate p.numSlots Mat.empty
    bmp := []
    bmpDraw := 0
    ctrl := Ctrl.reset
    status := Status.reset
    cmd := 0
    slotSel := 0
    cellAddr := 0
    bmpLen := 0
    bmpAddr := 0
    pendWord := 0
    pendStride := false
    pendDraw := 0
    turns := []
    reads := [] }

/-- The state right after hardware reset, with the default parameters of R6 (log entry 1). -/
def State.reset : State :=
  State.resetOf Params.default

end Sys2Proof.Machine
end

