-- ==== Sys2Proof/Machine/Flags.lean ====
section
/-! DEFINITION. The STATUS and CTRL registers as words, every change of a STATUS field, the error codes, the interrupt
line, and the range check behind OVERFLOW. -/

namespace Sys2Proof.Machine

/-- The command errors (60_exceptions.md R109). -/
inductive CmdError where
  | illegalOpcode | badSlot | dimMismatch | kernelShape | negSqrt
  | overflow | malformedInput | capacity | notImplemented | badRomId
deriving DecidableEq, Repr

/-- The code that STATUS.ERRCODE holds for a command error (R109). -/
def cmdErrorCode : CmdError → BitVec 8
  | .illegalOpcode => 0x01
  | .badSlot => 0x02
  | .dimMismatch => 0x03
  | .kernelShape => 0x04
  | .negSqrt => 0x05
  | .overflow => 0x06
  | .malformedInput => 0x07
  | .capacity => 0x08
  | .notImplemented => 0x09
  | .badRomId => 0x0A

/-- The host errors (20_memory.md R44). -/
inductive HostError where
  | busy | range | value | access
deriving DecidableEq, Repr

/-- The code that STATUS.HOST_ERRCODE holds for a refused access (R44). -/
def hostErrorCode : HostError → BitVec 8
  | .busy => 0x01
  | .range => 0x02
  | .value => 0x03
  | .access => 0x04

/-- STATUS as the Host reads it (R25). -/
def statusWord (st : Status) : Word :=
  0#8 ++ st.hostErrCode ++ st.errCode ++ 0#4 ++
    (BitVec.ofBool st.hostErr ++ BitVec.ofBool st.err ++ BitVec.ofBool st.done ++ BitVec.ofBool st.busy)

/-- CTRL as the Host reads it (R24): SOFT_RESET and the reserved bits read 0. -/
def ctrlWord (c : Ctrl) : Word :=
  0#30 ++ (BitVec.ofBool c.bmpStride ++ BitVec.ofBool c.irqEn)

/-- The W1C effect of writing `v` to STATUS (R25). -/
def statusW1C (v : Word) (st : Status) : Status :=
  { st with
    done := st.done && !v.getLsbD 1
    err := st.err && !v.getLsbD 2
    errCode := if v.getLsbD 2 then 0 else st.errCode
    hostErr := st.hostErr && !v.getLsbD 3
    hostErrCode := if v.getLsbD 3 then 0 else st.hostErrCode }

/-- STATUS when a command is accepted (R74). -/
def statusAccepted (st : Status) : Status :=
  { st with busy := true, done := false, err := false, errCode := 0 }

/-- STATUS when a command completes without error (R76). -/
def statusDone (st : Status) : Status :=
  { st with done := true, busy := false }

/-- STATUS when a command ends with a command error (R76, R110). -/
def statusErr (e : CmdError) (st : Status) : Status :=
  { st with err := true, errCode := cmdErrorCode e, busy := false }

/-- STATUS when a Host access is refused (R43). -/
def statusRefused (e : HostError) (st : Status) : Status :=
  { st with hostErr := true, hostErrCode := hostErrorCode e }

/-- The interrupt output (R113), a function of the state at every instant. -/
def irq (s : State) : Bool :=
  s.ctrl.irqEn && (s.status.done || s.status.err)

/-- `InRange32(x)` (R9). -/
def inRange32 (x : Int) : Bool :=
  decide (-2147483648 ≤ x) && decide (x ≤ 2147483647)

end Sys2Proof.Machine
end

