-- ==== Sys2Proof/Machine/Ops.lean ====
section
/-! DEFINITION. The named operations over the bitmap buffer, the slots and the registers; accepting a command (R74);
completing it, with or without an error (R76, R110); refusing a Host access (R43); the two resets (R122, R123). -/

namespace Sys2Proof.Machine

/-- The canonical form of the bitmap buffer's contents: addresses strictly rising. A listed byte is a written value,
and what an unlisted address holds is no written value, so no entry can equal it (log entry 2). -/
abbrev Memory.wf (m : Memory) : Prop :=
  m.Pairwise fun x y => x.1 < y.1

/-- The written value at an address, if there is one. -/
def Memory.lookup (addr : Nat) : Memory → Option Byte
  | [] => none
  | (a, b) :: rest => if a = addr then some b else Memory.lookup addr rest

/-- Writing a byte keeps the canonical form. -/
def Memory.store (addr : Nat) (v : Byte) : Memory → Memory
  | [] => [(addr, v)]
  | (a, b) :: rest =>
    if addr < a then (addr, v) :: (a, b) :: rest
    else if addr = a then (addr, v) :: rest
    else (a, b) :: Memory.store addr v rest

/-- `BmpRead(a)` (R10): the byte written there last, or the drawn byte where the Host has written none since the last
hardware reset (R38, R101). -/
def bmpRead (s : State) (addr : Nat) : Byte :=
  match Memory.lookup addr s.bmp with
  | some b => b
  | none => Config.drawnByte s.bmpDraw addr

/-- `BmpWrite(a, v)` (R10). -/
def bmpWrite (addr : Nat) (v : Byte) (s : State) : State :=
  { s with bmp := Memory.store addr v s.bmp }

/-- `LE32(a)` (R53): the little-endian signed 32-bit field at byte address `a`. -/
def le32 (s : State) (addr : Nat) : Int :=
  (bmpRead s (addr + 3) ++ bmpRead s (addr + 2) ++ bmpRead s (addr + 1) ++ bmpRead s addr).toInt

/-- `M[n]` (R10): the matrix value that slot number `n` holds. A number that names no slot is stopped before any read
(R81, R27); there the function answers the empty matrix (log entry 11). -/
def slotRead (s : State) (n : Nat) : Mat :=
  s.slots.getD n Mat.empty

/-- `M[n] <- X` (R10): dimensions and every cell at once. -/
def slotWrite (n : Nat) (x : Mat) (s : State) : State :=
  { s with slots := s.slots.set n x }

/-- What `Exec` returns (R75). -/
inductive CmdResult where
  /-- `Ok(d, X)`. -/
  | okSlot (d : BitVec 4) (x : Mat)
  /-- `Ok(none)`. -/
  | okNone
  /-- `Err(E)`. -/
  | err (e : CmdError)
deriving DecidableEq, Repr

/-- `raise E` (R110), the whole of taking a command error: ERR, ERRCODE and BUSY change, and nothing else. -/
def raise (e : CmdError) (s : State) : State :=
  { s with status := statusErr e s.status }

/-- Completion of the Engine step (R76). -/
def complete (r : CmdResult) (s : State) : State :=
  match r with
  | .okSlot d x => { slotWrite d.toNat x s with status := statusDone s.status }
  | .okNone => { s with status := statusDone s.status }
  | .err e => raise e s

/-- An accepted CMD write of `v` (R74). -/
def acceptCommand (v : Word) (s : State) : State :=
  { s with
    cmd := v
    pendWord := v
    pendStride := s.ctrl.bmpStride
    status := statusAccepted s.status }

/-- `hosterr(code)` (R43): the access is refused; only HOST_ERR and HOST_ERRCODE change. -/
def refuse (e : HostError) (s : State) : State :=
  { s with status := statusRefused e s.status }

/-- A read hands its value to the Host (R42; log entry 7). -/
def returnToHost (v : Word) (s : State) : State :=
  { s with reads := v :: s.reads }

/-- What a hardware reset and a soft reset have in common (R39): every register and slot takes its reset value, PEND
becomes unspecified and with it any pending command is discarded. -/
def resetRegisters (s : State) : State :=
  { s with
    slots := List.replicate s.params.numSlots Mat.empty
    ctrl := Ctrl.reset
    status := Status.reset
    cmd := 0
    slotSel := 0
    cellAddr := 0
    bmpLen := 0
    bmpAddr := 0
    pendWord := Config.pendWordAfterReset s.pendDraw
    pendStride := Config.pendStrideAfterReset s.pendDraw
    pendDraw := s.pendDraw + 1 }

/-- The soft reset (R123): BMPBUF keeps its contents. -/
def softReset (s : State) : State :=
  resetRegisters s

/-- The hardware reset (R122): the contents of BMPBUF become a fresh draw. -/
def hardReset (s : State) : State :=
  { resetRegisters s with bmp := [], bmpDraw := s.bmpDraw + 1 }

end Sys2Proof.Machine
end

