-- ==== Sys2Proof/Machine/Operands.lean ====
section
/-! DEFINITION. Operand forms of the commands (30_encoding.md R65): slot fields with the BAD_SLOT check (R81), and the
ROM kernels that LDK's field A selects (R18, R105). -/

namespace Sys2Proof.Machine

/-- Kx (R18). -/
def kernelKx : Mat :=
  { rows := 3, cols := 3, cells := [[-1, 0, 1], [-2, 0, 2], [-1, 0, 1]] }

/-- Ky (R18). -/
def kernelKy : Mat :=
  { rows := 3, cols := 3, cells := [[-1, -2, -1], [0, 0, 0], [1, 2, 1]] }

/-- The kernel that a ROM kernel id selects: 0 is Kx, 1 is Ky, 2 to 15 select none (R65). -/
def romKernel (k : BitVec 4) : Option Mat :=
  match k.toNat with
  | 0 => some kernelKx
  | 1 => some kernelKy
  | _ => none

/-- The matrix a slot operand names: the snapshot a command reads its source from (R11, R65). -/
def source (s : State) (f : BitVec 4) : Mat :=
  slotRead s f.toNat

/-- A field read as a slot holds a value `>= NUM_SLOTS` (R81). -/
def slotFieldBad (s : State) (fields : List (BitVec 4)) : Bool :=
  fields.any fun f => decide (s.params.numSlots ≤ f.toNat)

/-- The BAD_SLOT check, which comes before the family rule (R80). -/
def withSlots (s : State) (fields : List (BitVec 4)) (r : CmdResult) : CmdResult :=
  if slotFieldBad s fields then .err .badSlot else r

end Sys2Proof.Machine
end

