-- ==== Sys2Proof/Machine/Lifecycle.lean ====
section
/-! DEFINITION. NOP (40_command_lifecycle.md R83), and the Engine step of any command: its result, then completion. -/

namespace Sys2Proof.Machine

/-- The Engine step of a command whose slot fields are `fields` and whose family rule gives `r` (R75, R76, R80). -/
def runCommand (fields : List (BitVec 4)) (r : CmdResult) (s : State) :
    Host.Outcome State Fault Refusal :=
  .next (complete (withSlots s fields r) s)

/-- NOP (R83). -/
def execNop (s : State) : Host.Outcome State Fault Refusal :=
  runCommand [] .okNone s

end Sys2Proof.Machine
end

