-- ==== Sys2Proof/Machine/Convolution.lean ====
section
/-! DEFINITION. CONV (41_convolution.md). -/

namespace Sys2Proof.Machine

/-- `Ok(d, Y)` if every cell of `Y` is in range, else OVERFLOW: one check on the whole result (R89). -/
def rangeChecked (d : BitVec 4) (y : Mat) : CmdResult :=
  if y.all inRange32 then .okSlot d y else .err .overflow

/-- The integers from `-h` to `h`. -/
def offsets (h : Nat) : List Int :=
  (List.range (2 * h + 1)).map fun (p : Nat) => (p : Int) - (h : Int)

/-- The term of R88 at the offset `(m, n)`, with 0 for a term that falls outside the matrix. The kernel is not
flipped (R90). -/
def convTerm (k x : Mat) (i j : Nat) (m n : Int) : Int :=
  if 0 ≤ i + m ∧ i + m < x.rows ∧ 0 ≤ j + n ∧ j + n < x.cols then
    k.get (m + (k.rows / 2 : Nat)).toNat (n + (k.cols / 2 : Nat)).toNat * x.get (i + m).toNat (j + n).toNat
  else 0

/-- Cell `(i, j)` of `ConvSum(K, X)` (R88), an exact sum. -/
def convCell (k x : Mat) (i j : Nat) : Int :=
  ((offsets (k.rows / 2)).map fun m =>
    ((offsets (k.cols / 2)).map fun n => convTerm k x i j m n).sum).sum

/-- `ConvSum(K, X)` (R88): the dimensions are those of `X`. -/
def convSum (k x : Mat) : Mat :=
  Mat.ofFn x.rows x.cols (convCell k x)

/-- The family rule of CONV (R85): the degenerate case (R86), the kernel shape (R87), the sum and its range (R89). -/
def convResult (d : BitVec 4) (k x : Mat) : CmdResult :=
  if k.isEmpty || x.isEmpty then .okSlot d Mat.empty
  else if k.rows % 2 = 0 ∨ k.cols % 2 = 0 then .err .kernelShape
  else rangeChecked d (convSum k x)

/-- CONV d, a, b (R85). -/
def execConv (d a b : BitVec 4) (s : State) : Host.Outcome State Fault Refusal :=
  runCommand [d, a, b] (convResult d (source s a) (source s b)) s

end Sys2Proof.Machine
end

