-- ==== Sys2Proof/Machine/Elementwise.lean ====
section
/-! DEFINITION. SUM, SQR, ISQRT and REVR (42_elementwise.md). -/

namespace Sys2Proof.Machine

/-- The digits of the square root below `2 ^ n`, from the highest: `r` is the part found so far. -/
def isqrtDigits (x : Nat) : Nat → Nat → Nat
  | 0, r => r
  | n + 1, r => if (r + 2 ^ n) * (r + 2 ^ n) ≤ x then isqrtDigits x n (r + 2 ^ n) else isqrtDigits x n r

/-- `ISqrt(x)` (R95), computed digit by digit; exact for every `x >= 0`. -/
def isqrt (x : Nat) : Nat :=
  isqrtDigits x (x.log2 + 1) 0

/-- The cellwise sum of two matrices of the same dimensions (R92). -/
def matAdd (p q : Mat) : Mat :=
  Mat.ofFn p.rows p.cols fun i j => p.get i j + q.get i j

/-- The cellwise square (R93). -/
def matSquare (p : Mat) : Mat :=
  Mat.ofFn p.rows p.cols fun i j => p.get i j * p.get i j

/-- The cellwise integer square root of a matrix without negative cells (R94). -/
def matIsqrt (p : Mat) : Mat :=
  Mat.ofFn p.rows p.cols fun i j => (isqrt (p.get i j).toNat : Int)

/-- The rows in reverse order (R96). -/
def matReverse (p : Mat) : Mat :=
  Mat.ofFn p.rows p.cols fun i j => p.get (p.rows - 1 - i) j

/-- The family rule of SUM (R92). -/
def sumResult (d : BitVec 4) (p q : Mat) : CmdResult :=
  if p.rows ≠ q.rows ∨ p.cols ≠ q.cols then .err .dimMismatch
  else rangeChecked d (matAdd p q)

/-- The family rule of SQR (R93). -/
def sqrResult (d : BitVec 4) (p : Mat) : CmdResult :=
  rangeChecked d (matSquare p)

/-- The family rule of ISQRT (R94). -/
def isqrtResult (d : BitVec 4) (p : Mat) : CmdResult :=
  if p.all (fun x => decide (0 ≤ x)) then .okSlot d (matIsqrt p) else .err .negSqrt

/-- The family rule of REVR (R96). -/
def revrResult (d : BitVec 4) (p : Mat) : CmdResult :=
  .okSlot d (matReverse p)

/-- SUM d, a, b (R92). -/
def execSum (d a b : BitVec 4) (s : State) : Host.Outcome State Fault Refusal :=
  runCommand [d, a, b] (sumResult d (source s a) (source s b)) s

/-- SQR d, a (R93). -/
def execSqr (d a : BitVec 4) (s : State) : Host.Outcome State Fault Refusal :=
  runCommand [d, a] (sqrResult d (source s a)) s

/-- ISQRT d, a (R94). -/
def execIsqrt (d a : BitVec 4) (s : State) : Host.Outcome State Fault Refusal :=
  runCommand [d, a] (isqrtResult d (source s a)) s

/-- REVR d, a (R96). -/
def execRevr (d a : BitVec 4) (s : State) : Host.Outcome State Fault Refusal :=
  runCommand [d, a] (revrResult d (source s a)) s

end Sys2Proof.Machine
end

