-- ==== Sys2Proof/Machine/Bitmap.lean ====
section
/-! DEFINITION. DECODE (43_bitmap_decoder.md). -/

namespace Sys2Proof.Machine

/-- The row stride `S` (R100): the width, or with PEND.stride = 1 the height. -/
def rowStride (stride : Bool) (w h : Nat) : Nat :=
  if stride then h else w

/-- The stored rows `P` (R101): each pixel byte as an unsigned number. -/
def storedRows (s : State) (w h stride : Nat) : Mat :=
  Mat.ofFn h w fun i j => ((bmpRead s (0x36 + i * stride + j)).toNat : Int)

/-- The family rule of DECODE (R98), its checks in the order of R99. Width and height are positive where they are used
as natural numbers. The result is the stored rows reversed, as REVR does (R102). -/
def decodeResult (d : BitVec 4) (s : State) : CmdResult :=
  let len := s.bmpLen.toNat
  let w := le32 s 0x12
  let h := le32 s 0x16
  let stride := rowStride s.pendStride w.toNat h.toNat
  if len < 0x1A then .err .malformedInput
  else if w ≤ 0 ∨ h ≤ 0 then .err .malformedInput
  else if s.params.maxRows < h ∨ s.params.maxCols < w then .err .capacity
  else if len < 0x36 + (h.toNat - 1) * stride + w.toNat then .err .malformedInput
  else .okSlot d (matReverse (storedRows s w.toNat h.toNat stride))

/-- DECODE d (R98). -/
def execDecode (d : BitVec 4) (s : State) : Host.Outcome State Fault Refusal :=
  runCommand [d] (decodeResult d s) s

end Sys2Proof.Machine
end

