-- ==== Sys2Proof/Machine/Sobel.lean ====
section
/-! DEFINITION. LDK, SOBEL and HOUGH (44_sobel_filter.md). -/

namespace Sys2Proof.Machine

/-- The family rule of LDK (R105). -/
def ldkResult (d k : BitVec 4) : CmdResult :=
  match romKernel k with
  | some x => .okSlot d x
  | none => .err .badRomId

/-- `Gx` and `Gy` squared and added (R106): `T`, before its own range check. -/
def sobelEnergy (x : Mat) : Mat :=
  matAdd (matSquare (convSum kernelKx x)) (matSquare (convSum kernelKy x))

/-- The family rule of SOBEL (R106): each intermediate is range-checked in the order of the pseudocode. -/
def sobelResult (d : BitVec 4) (x : Mat) : CmdResult :=
  if x.isEmpty then .okSlot d Mat.empty
  else if !((convSum kernelKx x).all inRange32 && (convSum kernelKy x).all inRange32) then .err .overflow
  else if !((matSquare (convSum kernelKx x)).all inRange32 && (matSquare (convSum kernelKy x)).all inRange32) then
    .err .overflow
  else if !(sobelEnergy x).all inRange32 then .err .overflow
  else .okSlot d (matIsqrt (sobelEnergy x))

/-- LDK d, k (R105). Field A is a ROM kernel id and no slot. -/
def execLdk (d k : BitVec 4) (s : State) : Host.Outcome State Fault Refusal :=
  runCommand [d] (ldkResult d k) s

/-- SOBEL d, a (R106). -/
def execSobel (d a : BitVec 4) (s : State) : Host.Outcome State Fault Refusal :=
  runCommand [d, a] (sobelResult d (source s a)) s

/-- HOUGH d, a (R107): NOT_IMPLEMENTED, whatever the source holds. -/
def execHough (d a : BitVec 4) (s : State) : Host.Outcome State Fault Refusal :=
  runCommand [d, a] (.err .notImplemented) s

end Sys2Proof.Machine
end

