-- ==== Sys2Proof/Machine/Dispatch.lean ====
section
/-! DEFINITION. One arm for each command (40_command_lifecycle.md R80): each calls its own meaning. -/

namespace Sys2Proof.Machine

def exec (i : Instr) (s : State) : Host.Outcome State Fault Refusal :=
  match i with
  | .nop => Sys2Proof.Machine.execNop s
  | .conv d a b => Sys2Proof.Machine.execConv d a b s
  | .sum d a b => Sys2Proof.Machine.execSum d a b s
  | .sqr d a => Sys2Proof.Machine.execSqr d a s
  | .isqrt d a => Sys2Proof.Machine.execIsqrt d a s
  | .revr d a => Sys2Proof.Machine.execRevr d a s
  | .decode d => Sys2Proof.Machine.execDecode d s
  | .ldk d k => Sys2Proof.Machine.execLdk d k s
  | .sobel d a => Sys2Proof.Machine.execSobel d a s
  | .hough d a => Sys2Proof.Machine.execHough d a s

end Sys2Proof.Machine
end

