-- ==== Sys2Proof/Machine/HostAccess.lean ====
section
/-! DEFINITION. The Host's register accesses (20_memory.md), register by register (10_state.md section 5), with their
checks in the order of R45. -/

namespace Sys2Proof.Machine

/-- The register at an offset of the window that is a multiple of 4; 0x3C has none (R19, R47). -/
def regAt (off : BitVec 6) : Option Reg :=
  match off.toNat with
  | 0x00 => some .id
  | 0x04 => some .cfgDim
  | 0x08 => some .cfgMisc
  | 0x0C => some .bmpCap
  | 0x10 => some .ctrl
  | 0x14 => some .status
  | 0x18 => some .cmd
  | 0x1C => some .slotSel
  | 0x20 => some .slotRows
  | 0x24 => some .slotCols
  | 0x28 => some .cellAddr
  | 0x2C => some .cellData
  | 0x30 => some .bmpLen
  | 0x34 => some .bmpAddr
  | 0x38 => some .bmpData
  | _ => none

/-- The offset of a register (R19). -/
def regOffset : Reg → BitVec 6
  | .id => 0x00
  | .cfgDim => 0x04
  | .cfgMisc => 0x08
  | .bmpCap => 0x0C
  | .ctrl => 0x10
  | .status => 0x14
  | .cmd => 0x18
  | .slotSel => 0x1C
  | .slotRows => 0x20
  | .slotCols => 0x24
  | .cellAddr => 0x28
  | .cellData => 0x2C
  | .bmpLen => 0x30
  | .bmpAddr => 0x34
  | .bmpData => 0x38

/-- What the block decodes of an address that the platform routes to it: bits 5:0 (R41). -/
def offsetOfAddress (addr : Nat) : BitVec 6 :=
  BitVec.ofNat 6 addr

/-- The platform routes to the block the addresses of its window, the 0x40 bytes from BASE on (R40, R41; log entry 8). -/
def routedToBlock (base addr : Nat) : Bool :=
  decide (base ≤ addr) && decide (addr < base + 0x40)

/-- The access that the block sees (R42): the offset is what it decodes of the address (R41). -/
def blockAccess (a : BusAccess) : Access :=
  { kind := a.kind, off := offsetOfAddress a.addr, size := a.size, v := a.v }

/-- The read-only registers, whose writes are refused with ACCESS (R48). -/
def readOnly : Reg → Bool
  | .id | .cfgDim | .cfgMisc | .bmpCap => true
  | .ctrl | .status | .cmd | .slotSel | .slotRows | .slotCols => false
  | .cellAddr | .cellData | .bmpLen | .bmpAddr | .bmpData => false

/-- The accesses that the BUSY guard refuses while STATUS.BUSY = 1 (R125). -/
def guarded : AccessKind → Reg → Bool
  | .write, .cmd | .write, .bmpLen => true
  | _, .slotRows | _, .slotCols | _, .cellData | _, .bmpData => true
  | .read, .cmd | .read, .bmpLen => false
  | _, .id | _, .cfgDim | _, .cfgMisc | _, .bmpCap | _, .ctrl | _, .status => false
  | _, .slotSel | _, .cellAddr | _, .bmpAddr => false

/-- The slot that SLOT_SEL names (R27). -/
def selectedSlot (s : State) : Mat :=
  slotRead s s.slotSel.toNat

/-- CELL_ADDR.ROW (R30). -/
def cellRow (s : State) : Nat :=
  (s.cellAddr.extractLsb' 16 16).toNat

/-- CELL_ADDR.COL (R30). -/
def cellCol (s : State) : Nat :=
  (s.cellAddr.extractLsb' 0 16).toNat

/-- CELL_ADDR names a cell of the selected slot (R51). -/
def cellInRange (s : State) : Bool :=
  decide (cellRow s < (selectedSlot s).rows) && decide (cellCol s < (selectedSlot s).cols)

/-- BMP_ADDR names a byte of the bitmap buffer (R52). -/
def bmpAddrInRange (s : State) : Bool :=
  decide (s.bmpAddr.toNat < s.params.bmpBufBytes)

/-! ### Reads -/

/-- ID (R20): the ASCII bytes of CNV2. -/
def readId : Word := 0x434E5632

/-- CFG_DIM (R21): MAX_COLS in bits 31:16, MAX_ROWS in bits 15:0. -/
def readCfgDim (s : State) : Word :=
  BitVec.ofNat 16 s.params.maxCols ++ BitVec.ofNat 16 s.params.maxRows

/-- CFG_MISC (R22): CELL_W = 0x20 in bits 15:8, NUM_SLOTS in bits 7:0. -/
def readCfgMisc (s : State) : Word :=
  0#16 ++ 0x20#8 ++ BitVec.ofNat 8 s.params.numSlots

/-- BMP_CAP (R23). -/
def readBmpCap (s : State) : Word :=
  BitVec.ofNat 32 s.params.bmpBufBytes

/-- SLOT_SEL (R27): bits 31:4 read 0. -/
def readSlotSel (s : State) : Word :=
  0#28 ++ s.slotSel

/-- SLOT_ROWS (R28, R50): the row count in bits 15:0, bits 31:16 read 0. -/
def readSlotRows (s : State) : Word :=
  0#16 ++ BitVec.ofNat 16 (selectedSlot s).rows

/-- SLOT_COLS (R29, R50). -/
def readSlotCols (s : State) : Word :=
  0#16 ++ BitVec.ofNat 16 (selectedSlot s).cols

/-- CELL_DATA (R51): the cell as a two's-complement word, or RANGE. -/
def readCellData (s : State) : Except HostError Word :=
  if cellInRange s then .ok (BitVec.ofInt 32 ((selectedSlot s).get (cellRow s) (cellCol s)))
  else .error .range

/-- BMP_DATA (R52): the byte in bits 7:0, or RANGE. -/
def readBmpData (s : State) : Except HostError Word :=
  if bmpAddrInRange s then .ok (0#24 ++ bmpRead s s.bmpAddr.toNat)
  else .error .range

/-- The value that a read of a register returns once the checks before it have passed (R49 to R52). -/
def readReg (r : Reg) (s : State) : Except HostError Word :=
  match r with
  | .id => .ok readId
  | .cfgDim => .ok (readCfgDim s)
  | .cfgMisc => .ok (readCfgMisc s)
  | .bmpCap => .ok (readBmpCap s)
  | .ctrl => .ok (ctrlWord s.ctrl)
  | .status => .ok (statusWord s.status)
  | .cmd => .ok s.cmd
  | .slotSel => .ok (readSlotSel s)
  | .slotRows => .ok (readSlotRows s)
  | .slotCols => .ok (readSlotCols s)
  | .cellAddr => .ok s.cellAddr
  | .cellData => readCellData s
  | .bmpLen => .ok s.bmpLen
  | .bmpAddr => .ok s.bmpAddr
  | .bmpData => readBmpData s

/-! ### Writes -/

/-- CTRL (R24): a write with bit 2 set performs the soft reset alone; any other stores bits 1:0. -/
def writeCtrl (v : Word) (s : State) : State :=
  if v.getLsbD 2 then softReset s
  else { s with ctrl := { irqEn := v.getLsbD 0, bmpStride := v.getLsbD 1 } }

/-- STATUS (R25): write 1 to clear. -/
def writeStatus (v : Word) (s : State) : State :=
  { s with status := statusW1C v s.status }

/-- SLOT_SEL (R27): `v` is compared whole, as an unsigned number. -/
def writeSlotSel (v : Word) (s : State) : Except HostError State :=
  if v.toNat < s.params.numSlots then .ok { s with slotSel := v.extractLsb' 0 4 }
  else .error .value

/-- SLOT_ROWS (R50): the slot becomes an all-zero matrix of the new row count. -/
def writeSlotRows (v : Word) (s : State) : Except HostError State :=
  if s.params.maxRows < v.toNat then .error .value
  else .ok (slotWrite s.slotSel.toNat (Mat.zeros v.toNat (selectedSlot s).cols) s)

/-- SLOT_COLS (R50): the slot becomes an all-zero matrix of the new column count. -/
def writeSlotCols (v : Word) (s : State) : Except HostError State :=
  if s.params.maxCols < v.toNat then .error .value
  else .ok (slotWrite s.slotSel.toNat (Mat.zeros (selectedSlot s).rows v.toNat) s)

/-- CELL_DATA (R51): the whole word is the cell value, every other cell is unchanged. -/
def writeCellData (v : Word) (s : State) : Except HostError State :=
  if cellInRange s then
    .ok (slotWrite s.slotSel.toNat ((selectedSlot s).set (cellRow s) (cellCol s) v.toInt) s)
  else .error .range

/-- BMP_LEN (R32). -/
def writeBmpLen (v : Word) (s : State) : Except HostError State :=
  if s.params.bmpBufBytes < v.toNat then .error .value
  else .ok { s with bmpLen := v }

/-- BMP_DATA (R52): bits 31:8 are ignored. -/
def writeBmpData (v : Word) (s : State) : Except HostError State :=
  if bmpAddrInRange s then .ok (bmpWrite s.bmpAddr.toNat (v.extractLsb' 0 8) s)
  else .error .range

/-- The effect of a write to a register once the checks before it have passed (R49 to R52). -/
def writeReg (r : Reg) (v : Word) (s : State) : Except HostError State :=
  match r with
  | .id => .error .access
  | .cfgDim => .error .access
  | .cfgMisc => .error .access
  | .bmpCap => .error .access
  | .ctrl => .ok (writeCtrl v s)
  | .status => .ok (writeStatus v s)
  | .cmd => .ok (acceptCommand v s)
  | .slotSel => writeSlotSel v s
  | .slotRows => writeSlotRows v s
  | .slotCols => writeSlotCols v s
  | .cellAddr => .ok { s with cellAddr := v }
  | .cellData => writeCellData v s
  | .bmpLen => writeBmpLen v s
  | .bmpAddr => .ok { s with bmpAddr := v }
  | .bmpData => writeBmpData v s

/-! ### One access -/

/-- The checks 1 to 4 of R45: the register the access reaches, or the host error of the first check that fails. -/
def accessTarget (a : Access) (s : State) : Except HostError Reg :=
  if a.size ≠ 4 ∨ a.off.toNat % 4 ≠ 0 then .error .access
  else
    match regAt a.off with
    | none => .error .access
    | some r =>
      if a.kind = .write ∧ readOnly r = true then .error .access
      else if s.status.busy = true ∧ guarded a.kind r = true then .error .busy
      else .ok r

/-- A refused access (R43): a refused read returns 0, a refused write stores nothing. -/
def refuseAccess (a : Access) (e : HostError) (s : State) : State :=
  match a.kind with
  | .read => returnToHost 0 (refuse e s)
  | .write => refuse e s

/-- One Host access, one atomic step (R42, R45). -/
def hostAccess (a : Access) (s : State) : State :=
  match accessTarget a s with
  | .error e => refuseAccess a e s
  | .ok r =>
    match a.kind with
    | .read =>
      match readReg r s with
      | .error e => refuseAccess a e s
      | .ok v => returnToHost v s
    | .write =>
      match writeReg r a.v s with
      | .error e => refuseAccess a e s
      | .ok t => t

/-- A Host access at an address: one in the window from BASE on reaches the block, and any other is no access of the block
and leaves it as it is (R41; log entry 8). -/
def busAccess (a : BusAccess) (s : State) : State :=
  if routedToBlock s.params.base a.addr then hostAccess (blockAccess a) s else s

end Sys2Proof.Machine
end

