-- ==== Sys2Proof/Machine/Engine.lean ====
section
/-! DEFINITION. The Engine step (40_command_lifecycle.md R75, R80) and the turns of an execution (20_memory.md R59). -/

namespace Sys2Proof.Machine

/-- The step of the enabled Engine: an illegal word ends with ILLEGAL_OPCODE (R68, R80), any other word runs its
command. -/
def runPending (s : State) : Host.Outcome State Fault Refusal :=
  match decode s.pendWord with
  | .command i => exec i s
  | .illegal _ => .next (raise .illegalOpcode s)

/-- The Engine's turn: it is enabled exactly when STATUS.BUSY = 1 (R75); otherwise the block is idle and holds its
whole state (R121; log entry 12). -/
def engineTurn (s : State) : Host.Outcome State Fault Refusal :=
  if s.status.busy then runPending s else .next s

/-- One turn: a Host access at an address (R41), a hardware reset, or the Engine's. -/
def takeTurn (t : Turn) (s : State) : Host.Outcome State Fault Refusal :=
  match t with
  | .host a => .next (busAccess a s)
  | .hardReset => .next (hardReset s)
  | .engine => engineTurn s

/-- The next turn of the execution: the first one listed, and the Engine's when none is listed (R59, R77; log entry 5). -/
def nextTurn (s : State) : Host.Outcome State Fault Refusal :=
  match s.turns with
  | [] => engineTurn s
  | t :: rest => takeTurn t { s with turns := rest }

/-- A command word brought to the Engine: an accepted CMD write of it, and then the Engine's turn (R62, R74; log
entry 6). -/
def bringCommand (v : Word) (s : State) : State :=
  { acceptCommand v s with turns := .engine :: s.turns }

end Sys2Proof.Machine
end

