-- ==== Sys2Proof/Machine/Step.lean ====
section
/-! DEFINITION. One step of the machine: the next turn of the execution. -/

namespace Sys2Proof.Machine

/-- One step (R59): a Host access, a hardware reset or the Engine's turn. -/
def step (s : State) : Host.Outcome State Fault Refusal :=
  nextTurn s

/-- The state whose next step executes the command word `w` (bits above `nbits` are 0): the word is brought as an
accepted CMD write brings it, and the next turn is the Engine's (log entry 6). -/
def State.withFetchWord (s : State) (nbits w : Nat) : State :=
  bringCommand (BitVec.ofNat 32 (w % 2 ^ nbits)) s

end Sys2Proof.Machine
end

