-- ==== Sys2Proof/Machine/Assembler.lean ====
section
/-! DEFINITION. The assembler syntax of a command (30_encoding.md R71). -/

namespace Sys2Proof.Machine

/-- An operand as it is written (R71): `m<n>`, `#KX`, `#KY` or `#<n>`. -/
inductive AsmOperand where
  | slot (n : BitVec 4)
  | kx
  | ky
  | rom (n : BitVec 4)
deriving DecidableEq, Repr

/-- A command as it is written: a mnemonic and its operands in the order D, A, B (R71). -/
structure AsmLine where
  mnemonic : String
  operands : List AsmOperand
deriving DecidableEq, Repr

/-- The ROM kernel id that an operand names: `#KX` is 0, `#KY` is 1 (R71). A slot operand names none. -/
def romIdOf : AsmOperand → Option (BitVec 4)
  | .kx => some 0
  | .ky => some 1
  | .rom n => some n
  | .slot _ => none

/-- The way to write a ROM kernel id (R71). -/
def romOperand (k : BitVec 4) : AsmOperand :=
  if k = 0 then .kx else if k = 1 then .ky else .rom k

/-- A command in assembler syntax (the forms of R71). -/
def asmLine : Instr → AsmLine
  | .nop => ⟨"NOP", []⟩
  | .conv d a b => ⟨"CONV", [.slot d, .slot a, .slot b]⟩
  | .sum d a b => ⟨"SUM", [.slot d, .slot a, .slot b]⟩
  | .sqr d a => ⟨"SQR", [.slot d, .slot a]⟩
  | .isqrt d a => ⟨"ISQRT", [.slot d, .slot a]⟩
  | .revr d a => ⟨"REVR", [.slot d, .slot a]⟩
  | .decode d => ⟨"DECODE", [.slot d]⟩
  | .ldk d k => ⟨"LDK", [.slot d, romOperand k]⟩
  | .sobel d a => ⟨"SOBEL", [.slot d, .slot a]⟩
  | .hough d a => ⟨"HOUGH", [.slot d, .slot a]⟩

/-- The command that a line spells, where it has one of the forms of R71. -/
def parseAsm (l : AsmLine) : Option Instr :=
  match l.operands with
  | [] => if l.mnemonic = "NOP" then some .nop else none
  | [.slot d] => if l.mnemonic = "DECODE" then some (.decode d) else none
  | [.slot d, .slot a] =>
    if l.mnemonic = "SQR" then some (.sqr d a)
    else if l.mnemonic = "ISQRT" then some (.isqrt d a)
    else if l.mnemonic = "REVR" then some (.revr d a)
    else if l.mnemonic = "SOBEL" then some (.sobel d a)
    else if l.mnemonic = "HOUGH" then some (.hough d a)
    else none
  | [.slot d, k] => if l.mnemonic = "LDK" then (romIdOf k).map (.ldk d) else none
  | [.slot d, .slot a, .slot b] =>
    if l.mnemonic = "CONV" then some (.conv d a b)
    else if l.mnemonic = "SUM" then some (.sum d a b)
    else none
  | _ => none

/-- The word that a line assembles to (R64, R71). -/
def assemble (l : AsmLine) : Option Word :=
  (parseAsm l).map encode

/-- An operand as text, its number in decimal (R71). -/
def AsmOperand.text : AsmOperand → String
  | .slot n => "m" ++ toString n.toNat
  | .kx => "#KX"
  | .ky => "#KY"
  | .rom n => "#" ++ toString n.toNat

/-- A line as text: the mnemonic, then the operands separated by commas (R71). -/
def AsmLine.text (l : AsmLine) : String :=
  match l.operands with
  | [] => l.mnemonic
  | ops => l.mnemonic ++ " " ++ String.intercalate ", " (ops.map AsmOperand.text)

end Sys2Proof.Machine
end

