-- ==== Sys2Proof/Machine/HostProgram.lean ====
section
/-! DEFINITION. Host programs (30_encoding.md R72) and their pseudo-instructions (R73), as turns of an execution. The
Host's control flow is its own; where a pseudo-instruction loops on what the Host reads, the number of rounds stands in
its argument (log entry 5). -/

namespace Sys2Proof.Machine

/-- The address of a register in the Host's address space: `BASE + off(REG)` (R72). -/
def regAddress (base : Nat) (r : Reg) : Nat :=
  base + (regOffset r).toNat

/-- `W REG, v`: `MemWrite(BASE + off(REG), 4, v)` (R72). -/
def hostWrite (base : Nat) (r : Reg) (v : Word) : Turn :=
  .host { kind := .write, addr := regAddress base r, size := 4, v := v }

/-- `R REG`: `MemRead(BASE + off(REG), 4)` (R72). -/
def hostRead (base : Nat) (r : Reg) : Turn :=
  .host { kind := .read, addr := regAddress base r, size := 4, v := 0 }

/-- A line of a Host program: an access (R72) or a pseudo-instruction (R73). -/
inductive HostOp where
  /-- `W REG, v`. -/
  | write (r : Reg) (v : Word)
  /-- `R REG`. -/
  | read (r : Reg)
  /-- `ISSUE cmd`. -/
  | issue (i : Instr)
  /-- `WAIT`: `polls` reads of STATUS before the Engine's turn, and the read after it that ends the loop. -/
  | wait (polls : Nat)
  /-- `RUN cmd`: ISSUE, then WAIT. -/
  | run (i : Instr) (polls : Nat)
  /-- `SEL m<s>`. -/
  | sel (slot : BitVec 4)
  /-- `LDM m<s>, r, c, [...]`. -/
  | ldm (slot : BitVec 4) (m : Mat)
  /-- `RDM m<s>`, for a slot whose dimension reads return `rows` and `cols`. -/
  | rdm (slot : BitVec 4) (rows cols : Nat)
  /-- `LDB [b0, ..., b(n-1)]`. -/
  | ldb (bytes : List Byte)
  /-- `ACK`. -/
  | ack
deriving DecidableEq, Repr

/-- CELL_ADDR for row `i` and column `j`: `(i << 16) | j` (R30, R73). -/
def cellAddress (i j : Nat) : Word :=
  BitVec.ofNat 16 i ++ BitVec.ofNat 16 j

/-- `SEL m<s>`: `W SLOT_SEL, s` (R73). -/
def selTurns (base : Nat) (slot : BitVec 4) : List Turn :=
  [hostWrite base .slotSel (0#28 ++ slot)]

/-- `WAIT` (R73): the loop ends only when the Engine has taken its step. -/
def waitTurns (base : Nat) (polls : Nat) : List Turn :=
  List.replicate polls (hostRead base .status) ++ [.engine, hostRead base .status]

/-- The cell writes of LDM, in row-major order, zero cells skipped (R73). -/
def ldmCells (base : Nat) (m : Mat) : List Turn :=
  (List.range m.rows).flatMap fun i => (List.range m.cols).flatMap fun j =>
    if m.get i j = 0 then []
    else [hostWrite base .cellAddr (cellAddress i j), hostWrite base .cellData (BitVec.ofInt 32 (m.get i j))]

/-- The cell reads of RDM, in row-major order (R73). -/
def rdmCells (base : Nat) (rows cols : Nat) : List Turn :=
  (List.range rows).flatMap fun i => (List.range cols).flatMap fun j =>
    [hostWrite base .cellAddr (cellAddress i j), hostRead base .cellData]

/-- The byte writes of LDB, from address `k` on (R73). -/
def ldbBytes (base : Nat) : Nat → List Byte → List Turn
  | _, [] => []
  | k, b :: rest =>
    hostWrite base .bmpAddr (BitVec.ofNat 32 k) :: hostWrite base .bmpData (0#24 ++ b) :: ldbBytes base (k + 1) rest

/-- The expansion of a line (R72, R73) for a block whose window stands at `base` (R41). -/
def expand (base : Nat) : HostOp → List Turn
  | .write r v => [hostWrite base r v]
  | .read r => [hostRead base r]
  | .issue i => [hostWrite base .cmd (encode i)]
  | .wait polls => waitTurns base polls
  | .run i polls => hostWrite base .cmd (encode i) :: waitTurns base polls
  | .sel slot => selTurns base slot
  | .ldm slot m =>
    selTurns base slot ++
      [hostWrite base .slotRows (BitVec.ofNat 32 m.rows), hostWrite base .slotCols (BitVec.ofNat 32 m.cols)] ++
      ldmCells base m
  | .rdm slot rows cols =>
    selTurns base slot ++ [hostRead base .slotRows, hostRead base .slotCols] ++ rdmCells base rows cols
  | .ldb bytes => ldbBytes base 0 bytes ++ [hostWrite base .bmpLen (BitVec.ofNat 32 bytes.length)]
  | .ack => [hostWrite base .status 0x0000000E]

/-- A Host program as turns, for a block whose window stands at `base` (R41). -/
def program (base : Nat) (ops : List HostOp) : List Turn :=
  ops.flatMap (expand base)

end Sys2Proof.Machine
end

