-- ==== Sys2Proof/WellFormed.lean ====
section
/-! DEFINITION. The static checks on a command. Every `Instr` has an encoding, since its operands are 4-bit fields; a
command is well-formed for an instance when its slot operands name slots the instance has (40_command_lifecycle.md
R81) and its ROM kernel id names a kernel (44_sobel_filter.md R105). A command that is not well-formed still runs: it
ends with BAD_SLOT or BAD_ROM_ID. -/

namespace Sys2Proof

/-- The operands that name slots, in the order D, A, B (the table of R81). -/
def Instr.slotOperands : Instr → List (BitVec 4)
  | .nop => []
  | .conv d a b => [d, a, b]
  | .sum d a b => [d, a, b]
  | .sqr d a => [d, a]
  | .isqrt d a => [d, a]
  | .revr d a => [d, a]
  | .decode d => [d]
  | .ldk d _ => [d]
  | .sobel d a => [d, a]
  | .hough d a => [d, a]

/-- The ROM kernel id, where the command has one: 0 is Kx, 1 is Ky, 2 to 15 name none (R65, R105). -/
def Instr.romIdNamed : Instr → Bool
  | .ldk _ k => decide (k.toNat < 2)
  | .nop => true
  | .conv _ _ _ => true
  | .sum _ _ _ => true
  | .sqr _ _ => true
  | .isqrt _ _ => true
  | .revr _ _ => true
  | .decode _ => true
  | .sobel _ _ => true
  | .hough _ _ => true

/-- Every slot operand is below NUM_SLOTS, and the ROM kernel id names a kernel (R65). -/
def Instr.wellFormed (p : Params) (i : Instr) : Bool :=
  i.slotOperands.all (fun f => decide (f.toNat < p.numSlots)) && i.romIdNamed

end Sys2Proof
end

