-- ==== Sys2Proof/Safety.lean ====
section
/-! DEFINITION. The terms that claims about the machine use: what a legal state is (the invariants that the rules of
10_state.md and 60_exceptions.md give), the states in which a command or a Host access ends, written out field by
field, and the sum of 41_convolution.md R88 as a sum over ranges of integers. -/

namespace Sys2Proof.Machine

/-- What R14 says of the matrix in a slot: the shape, the size limits, and every cell in range. -/
structure SlotOk (p : Params) (m : Mat) : Prop where
  shaped : m.Shaped
  rows_le : m.rows ≤ p.maxRows
  cols_le : m.cols ≤ p.maxCols
  in_range : ∀ i j, i < m.rows → j < m.cols → inRange32 (m.get i j) = true

/-- The invariants of STATUS: no DONE or ERR while a command is pending (R74), DONE and ERR never both 1, a code of 0
exactly when its bit is 0 (R25), and no code above the last one of R109 and R44. -/
structure StatusOk (st : Status) : Prop where
  busy_clear : st.busy = true → st.done = false ∧ st.err = false
  not_both : ¬(st.done = true ∧ st.err = true)
  err_code : st.err = false ↔ st.errCode = 0
  err_code_le : st.errCode.toNat ≤ 0x0A
  host_err_code : st.hostErr = false ↔ st.hostErrCode = 0
  host_err_code_le : st.hostErrCode.toNat ≤ 0x04

/-- A legal state: what the rules say holds of every state a block can be in. -/
structure Inv (s : State) : Prop where
  /-- R6. -/
  params_legal : s.params.Legal
  /-- R14: exactly NUM_SLOTS slots. -/
  slots_length : s.slots.length = s.params.numSlots
  /-- R14, R15. -/
  slots_ok : ∀ m ∈ s.slots, SlotOk s.params m
  /-- The canonical form of the bitmap buffer's contents. -/
  bmp_wf : Memory.wf s.bmp
  /-- R17: no byte at or past BMP_BUF_BYTES. -/
  bmp_inside : ∀ c ∈ s.bmp, c.1 < s.params.bmpBufBytes
  /-- R25, R44, R109. -/
  status_ok : StatusOk s.status
  /-- R27: SLOT_SEL always names an existing slot. -/
  slot_sel_lt : s.slotSel.toNat < s.params.numSlots
  /-- R32: LEN is at most BMP_BUF_BYTES. -/
  bmp_len_le : s.bmpLen.toNat ≤ s.params.bmpBufBytes

/-- Every slot operand of the command names a slot of the instance (R65, R81). -/
abbrev SlotsExist (i : Instr) (s : State) : Prop :=
  ∀ f ∈ i.slotOperands, f.toNat < s.params.numSlots

/-- The slot a command may write (R76): its destination. NOP has none, and HOUGH never writes a slot (R107). -/
def writtenSlot : Instr → Option (BitVec 4)
  | .nop => none
  | .conv d _ _ => some d
  | .sum d _ _ => some d
  | .sqr d _ => some d
  | .isqrt d _ => some d
  | .revr d _ => some d
  | .decode d => some d
  | .ldk d _ => some d
  | .sobel d _ => some d
  | .hough _ _ => none

/-- `s` after a command completed with `Ok(d, y)` (R76). -/
def okState (d : BitVec 4) (y : Mat) (s : State) : State :=
  { s with slots := s.slots.set d.toNat y, status := { s.status with done := true, busy := false } }

/-- `s` after a command completed with `Ok(none)` (R76). -/
def doneState (s : State) : State :=
  { s with status := { s.status with done := true, busy := false } }

/-- `s` after a command ended with the command error code `code` (R76, R110). -/
def errState (code : BitVec 8) (s : State) : State :=
  { s with status := { s.status with err := true, errCode := code, busy := false } }

/-- `s` after a refused access of the given kind (R43): a refused read returns 0. -/
def refusedState (k : AccessKind) (code : BitVec 8) (s : State) : State :=
  { s with
    status := { s.status with hostErr := true, hostErrCode := code }
    reads := if k = .read then 0 :: s.reads else s.reads }

/-- `s` after a read that returned `v`: nothing but the Host's record changes (R56). -/
def readState (v : Word) (s : State) : State :=
  { s with reads := v :: s.reads }

/-- The 32-bit read at byte offset `off` of the window (R42). -/
def readAt (off : BitVec 6) : Access :=
  { kind := .read, off := off, size := 4, v := 0 }

/-- The 32-bit write of `v` at byte offset `off` of the window (R42). -/
def writeAt (off : BitVec 6) (v : Word) : Access :=
  { kind := .write, off := off, size := 4, v := v }

/-- The access is a write to CTRL with bit 2 set, which performs a soft reset (R24). -/
abbrev isSoftReset (a : Access) : Prop :=
  a.kind = .write ∧ a.size = 4 ∧ a.off = 0x10 ∧ a.v.getLsbD 2 = true

/-- One term of the sum of R88 for cell `(i, j)`: with `p = m + hr` and `q = n + hc` it is `K[m+hr][n+hc] * X[i+m][j+n]`
where `0 <= i+m < r` and `0 <= j+n < c`, and a term outside the matrix is skipped. -/
def kernelTerm (k x : Mat) (i j p q : Nat) : Int :=
  if k.rows / 2 ≤ i + p ∧ i + p - k.rows / 2 < x.rows ∧ k.cols / 2 ≤ j + q ∧ j + q - k.cols / 2 < x.cols then
    k.get p q * x.get (i + p - k.rows / 2) (j + q - k.cols / 2)
  else 0

/-- The sum of R88 for cell `(i, j)`, over `m` in `[-hr, hr]` and `n` in `[-hc, hc]`. -/
def kernelSum (k x : Mat) (i j : Nat) : Int :=
  ∑ p ∈ Finset.range (2 * (k.rows / 2) + 1), ∑ q ∈ Finset.range (2 * (k.cols / 2) + 1), kernelTerm k x i j p q

/-- `Y` is `Matrix(r, c, f)` (R9). -/
def IsMatrix (y : Mat) (r c : Nat) (f : Nat → Nat → Int) : Prop :=
  y.Shaped ∧ y.rows = r ∧ y.cols = c ∧ ∀ i j, i < r → j < c → y.get i j = f i j

/-- Both dimensions are odd (R87). -/
abbrev OddShaped (k : Mat) : Prop :=
  k.rows % 2 = 1 ∧ k.cols % 2 = 1

/-- A command issued by an accepted CMD write and then executed by the Engine (R74 to R76). -/
def issueAndRun (i : Instr) (s : State) : State :=
  match exec i (acceptCommand (encode i) s) with
  | .next t => t
  | .fault _ => s
  | .refused _ => s

/-- Commands issued and executed one after another, as far as the first that ends with a command error. -/
def runSequence : List Instr → State → State
  | [], s => s
  | i :: rest, s =>
    if (issueAndRun i s).status.err then issueAndRun i s else runSequence rest (issueAndRun i s)

/-- The command sequence of R108 item 1. -/
def sobelSequence (d a t1 t2 t3 : BitVec 4) : List Instr :=
  [.ldk t1 0, .conv t2 t1 a, .ldk t1 1, .conv t3 t1 a, .sqr t2 t2, .sqr t3 t3, .sum t2 t2 t3, .isqrt d t2]

end Sys2Proof.Machine
end

