-- ==== Sys2Proof/Certificates/Slice0/Obligations.lean ====
section
/-! DEFINITION. The statements about the machine, for the provers. Each docstring names the rule of spec/ it formalises. -/

open Sys2Proof Sys2Proof.Machine

/-! ### Encoding -/

/-- R69, R66: every word spells exactly one command or is illegal, and the encoder gives that word back. The opcodes
are those of R66. -/
def Obligations.DecodeAgreesWithEncode : Prop :=
  ∀ (w : Word) (i : Instr), decode w = .command i ↔ encode i = w

/-- R67: a word spells a mnemonic exactly when `w & mask = match`, its operands are the bits of its fields D, A and B, and
no word matches two rows. -/
def Obligations.WordSpellsMnemonicByMaskAndMatch : Prop :=
  (∀ w : Word,
    (w &&& 0xFFFFFFFF = 0x00000000 ↔ decode w = .command .nop) ∧
    (w &&& 0xFFF000FF = 0x00000001 ↔
      decode w = .command (.conv (w.extractLsb' 8 4) (w.extractLsb' 12 4) (w.extractLsb' 16 4))) ∧
    (w &&& 0xFFF000FF = 0x00000002 ↔
      decode w = .command (.sum (w.extractLsb' 8 4) (w.extractLsb' 12 4) (w.extractLsb' 16 4))) ∧
    (w &&& 0xFFFF00FF = 0x00000003 ↔ decode w = .command (.sqr (w.extractLsb' 8 4) (w.extractLsb' 12 4))) ∧
    (w &&& 0xFFFF00FF = 0x00000004 ↔ decode w = .command (.isqrt (w.extractLsb' 8 4) (w.extractLsb' 12 4))) ∧
    (w &&& 0xFFFF00FF = 0x00000005 ↔ decode w = .command (.revr (w.extractLsb' 8 4) (w.extractLsb' 12 4))) ∧
    (w &&& 0xFFFFF0FF = 0x00000006 ↔ decode w = .command (.decode (w.extractLsb' 8 4))) ∧
    (w &&& 0xFFFF00FF = 0x00000007 ↔ decode w = .command (.ldk (w.extractLsb' 8 4) (w.extractLsb' 12 4))) ∧
    (w &&& 0xFFFF00FF = 0x00000008 ↔ decode w = .command (.sobel (w.extractLsb' 8 4) (w.extractLsb' 12 4))) ∧
    (w &&& 0xFFFF00FF = 0x00000009 ↔ decode w = .command (.hough (w.extractLsb' 8 4) (w.extractLsb' 12 4)))) ∧
  (∀ i : Instr, encode i &&& maskWord i = matchWord i) ∧
  (∀ (w : Word) (i j : Instr), w &&& maskWord i = matchWord i → w &&& maskWord j = matchWord j → opcode i = opcode j)

/-- R68: a word is illegal exactly for its three reasons; an illegal word is accepted by the CMD write, and the Engine
ends it with ILLEGAL_OPCODE (0x01) and writes no slot. -/
def Obligations.IllegalWordsEndWithIllegalOpcode : Prop :=
  (∀ w : Word, (∃ why, decode w = .illegal why) ↔
    0x0A ≤ (w.extractLsb' 0 8).toNat ∨ w.extractLsb' 20 12 ≠ 0 ∨
    (w.extractLsb' 16 4 ≠ 0 ∧ (w.extractLsb' 0 8).toNat ≠ 1 ∧ (w.extractLsb' 0 8).toNat ≠ 2) ∨
    (w.extractLsb' 12 4 ≠ 0 ∧ ((w.extractLsb' 0 8).toNat = 0 ∨ (w.extractLsb' 0 8).toNat = 6)) ∨
    (w.extractLsb' 8 4 ≠ 0 ∧ (w.extractLsb' 0 8).toNat = 0)) ∧
  (∀ (w : Word) (s : State), s.status.busy = false →
    (hostAccess (writeAt 0x18 w) s).status.busy = true ∧ (hostAccess (writeAt 0x18 w) s).pendWord = w) ∧
  (∀ (s : State) (why : IllegalWord), s.status.busy = true → decode s.pendWord = .illegal why →
    engineTurn s = .next (errState 0x01 s))

/-- R71 and 95_test_vectors.md section 2.1: words written out from the encoding decode to what they stand for. -/
def Obligations.SampleWordsDecode : Prop :=
  decode 0x00000000 = .command .nop ∧ decode 0x00010201 = .command (.conv 2 0 1) ∧
  decode 0x00056701 = .command (.conv 7 6 5) ∧ decode 0x00010202 = .command (.sum 2 0 1) ∧
  decode 0x00000306 = .command (.decode 3) ∧ decode 0x00001307 = .command (.ldk 3 1) ∧
  decode 0x00000109 = .command (.hough 1 0) ∧ assemble ⟨"CONV", [.slot 2, .slot 0, .slot 1]⟩ = some 0x00010201

/-- R71: reading back the assembler form of a command gives the command. -/
def Obligations.AssemblerFormParsesBack : Prop :=
  ∀ i : Instr, parseAsm (asmLine i) = some i ∧ assemble (asmLine i) = some (encode i)

/-! ### The step -/

/-- R75, R80, R68: with a command pending, the Engine's turn runs the command that the pending word spells, and ends with
ILLEGAL_OPCODE (0x01) where the word is illegal. That a step is the Engine's turn where that turn is listed first, and also
where nothing is listed, is the model's choice and no rule of the spec (DESIGN CHOICE, log entry 5). -/
def Obligations.StepRunsDecodedCommand : Prop :=
  ∀ s : State, s.status.busy = true →
    (∀ i : Instr, decode s.pendWord = .command i →
      (s.turns = [] → step s = exec i s) ∧
      (∀ rest, s.turns = .engine :: rest → step s = exec i { s with turns := rest })) ∧
    (∀ why : IllegalWord, decode s.pendWord = .illegal why →
      (s.turns = [] → step s = .next (errState 0x01 s)) ∧
      (∀ rest, s.turns = .engine :: rest → step s = .next (errState 0x01 { s with turns := rest })))

/-- The other turns (R59, R122, R72, R41). A Host access and a hardware reset are one step each (R59, R122); an access at an
address of the window from BASE on is the access of the block at bits 5:0 of the address (R41), so with BASE a multiple of
0x40 (DEDUCED, log entry 8) the accesses `W REG, v` and `R REG` of R72 reach the register's offset. The model's choices, which
no rule states: that the turns are listed, and that with none listed the Engine's turn is next (DESIGN CHOICE, log entry 5);
that the Engine's turn without a pending command is a step that changes nothing (DEDUCED, log entry 12); that an access
outside the window leaves the block as it is (DESIGN CHOICE, log entry 8). -/
def Obligations.StepTakesEveryOtherTurn : Prop :=
  ∀ s : State,
    (s.status.busy = false → s.turns = [] → step s = .next s) ∧
    (∀ rest, s.status.busy = false → s.turns = .engine :: rest → step s = .next { s with turns := rest }) ∧
    (∀ a rest, s.turns = .host a :: rest → s.params.base ≤ a.addr → a.addr < s.params.base + 0x40 →
      step s = .next (hostAccess { kind := a.kind, off := BitVec.ofNat 6 a.addr, size := a.size, v := a.v }
        { s with turns := rest })) ∧
    (∀ a rest, s.turns = .host a :: rest → ¬(s.params.base ≤ a.addr ∧ a.addr < s.params.base + 0x40) →
      step s = .next { s with turns := rest }) ∧
    (∀ r v rest, s.params.base % 0x40 = 0 → s.turns = hostWrite s.params.base r v :: rest →
      step s = .next (hostAccess (writeAt (regOffset r) v) { s with turns := rest })) ∧
    (∀ r rest, s.params.base % 0x40 = 0 → s.turns = hostRead s.params.base r :: rest →
      step s = .next (hostAccess (readAt (regOffset r)) { s with turns := rest })) ∧
    (∀ rest, s.turns = .hardReset :: rest → step s = .next (hardReset { s with turns := rest }))

/-- Log entry 6 (the model's own way to bring a word to the Engine): the step after `withFetchWord` runs the word as a
step after an accepted CMD write would. -/
def Obligations.FetchedWordRunsNext : Prop :=
  ∀ (s : State) (w : Word) (i : Instr), decode w = .command i →
    step (s.withFetchWord 32 w.toNat) = exec i (hostAccess (writeAt 0x18 w) { s with status := { s.status with busy := false } })

/-- 93_implementation_defined.md section 1: no behaviour of the block is stuck; every step answers a next state, which
carries the same parameters and has used up the first listed turn. -/
def Obligations.EveryStepAnswersNext : Prop :=
  ∀ s : State, ∃ t, step s = .next t ∧ t.params = s.params ∧ t.turns = s.turns.tail

/-- No command is pending after the listed turns and one more step: the model's form of R77 (DESIGN CHOICE, log entry 5). The
Engine may have executed the command, or a listed reset discarded it; that the Engine's turn executes a pending command is
`StepRunsDecodedCommand`. -/
def Obligations.NoCommandPendingAfterListedTurns : Prop :=
  ∀ s : State, ∃ t, Host.Core.run Sys2Proof.core (s.turns.length + 1) s = .next t ∧
    t.status.busy = false ∧ t.turns = []

/-! ### Invariants -/

/-- R39 and the invariants of 10_state.md: the state after reset is legal, for every legal choice of parameters. -/
def Obligations.ResetIsLegal : Prop :=
  Inv State.reset ∧ ∀ p : Params, p.Legal → Inv (State.resetOf p)

/-- R14, R15, R25, R27, R32: every step from a legal state leads to a legal state. -/
def Obligations.EveryStepKeepsLegality : Prop :=
  ∀ s t : State, Inv s → step s = .next t → Inv t

/-! ### Completion, frames and errors of every command -/

/-- R76: every command ends in one of three ways: its destination written and DONE set, or (NOP) DONE set alone, or a
command error recorded and nothing else changed. -/
def Obligations.CommandCompletesInOneOfThreeWays : Prop :=
  ∀ (i : Instr) (s : State),
    (∃ d y, writtenSlot i = some d ∧ exec i s = .next (okState d y s)) ∨
    (i = .nop ∧ exec i s = .next (doneState s)) ∨
    (∃ code : BitVec 8, 1 ≤ code.toNat ∧ code.toNat ≤ 0x0A ∧ exec i s = .next (errState code s))

/-- R17, R76, R110 (frame): whatever a command does, every slot but its destination, every byte of the bitmap buffer and every
register but STATUS is unchanged; in STATUS, HOST_ERR and HOST_ERRCODE are unchanged and BUSY is 0; a command that sets
ERR where it was clear leaves every slot unchanged. That PEND (its word and its stride) is unchanged is the model's choice
and no rule's own words: R35 says that R76 consumes PEND, and R76 does not list it (DEDUCED, log entry 4). The fields turns
and reads are the model's own (log entries 5 and 7). -/
def Obligations.CommandFrame : Prop :=
  ∀ (i : Instr) (s t : State), exec i s = .next t →
    (∀ n : Nat, (∀ d, writtenSlot i = some d → n ≠ d.toNat) → slotRead t n = slotRead s n) ∧
    (∀ addr : Nat, bmpRead t addr = bmpRead s addr) ∧
    t.params = s.params ∧ t.ctrl = s.ctrl ∧ t.cmd = s.cmd ∧ t.slotSel = s.slotSel ∧ t.cellAddr = s.cellAddr ∧
    t.bmpLen = s.bmpLen ∧ t.bmpAddr = s.bmpAddr ∧ t.pendWord = s.pendWord ∧ t.pendStride = s.pendStride ∧
    t.turns = s.turns ∧ t.reads = s.reads ∧
    t.status.hostErr = s.status.hostErr ∧ t.status.hostErrCode = s.status.hostErrCode ∧ t.status.busy = false ∧
    (s.status.err = false → t.status.err = true → t.slots = s.slots)

/-- R81: a command ends with BAD_SLOT (0x02) exactly when a field it reads as a slot is at or above NUM_SLOTS; with
NUM_SLOTS = 16 it never does. -/
def Obligations.BadSlotExactlyWhenAFieldNamesNoSlot : Prop :=
  ∀ (i : Instr) (s : State),
    ((∃ f ∈ i.slotOperands, s.params.numSlots ≤ f.toNat) → exec i s = .next (errState 0x02 s)) ∧
    (SlotsExist i s → s.status.err = false → exec i s ≠ .next (errState 0x02 s)) ∧
    (s.params.numSlots = 16 → SlotsExist i s)

/-- R109, R111: the error codes that each command may end with, beside ILLEGAL_OPCODE. -/
def Obligations.ErrorsOfEachCommand : Prop :=
  ∀ (i : Instr) (s t : State), exec i s = .next t → s.status.err = false → t.status.err = true →
    t.status.errCode.toNat ∈ match i with
      | .nop => []
      | .conv _ _ _ => [0x02, 0x04, 0x06]
      | .sum _ _ _ => [0x02, 0x03, 0x06]
      | .sqr _ _ => [0x02, 0x06]
      | .isqrt _ _ => [0x02, 0x05]
      | .revr _ _ => [0x02]
      | .decode _ => [0x02, 0x07, 0x08]
      | .ldk _ _ => [0x02, 0x0A]
      | .sobel _ _ => [0x02, 0x06]
      | .hough _ _ => [0x02, 0x09]

/-- R78: what a command does depends only on PEND.stride, the slots, the bitmap buffer, BMP_LEN and the parameters: two
states that agree on these end with the same slots, and from the same STATUS with the same STATUS. -/
def Obligations.CommandDependsOnlyOnItsArguments : Prop :=
  ∀ (i : Instr) (s s' t t' : State),
    s.params = s'.params → s.slots = s'.slots → (∀ addr, bmpRead s addr = bmpRead s' addr) → s.bmpLen = s'.bmpLen →
    s.pendStride = s'.pendStride → s.status = s'.status →
    exec i s = .next t → exec i s' = .next t' → t.slots = t'.slots ∧ t.status = t'.status

/-! ### NOP, CONV -/

/-- R83: NOP completes with DONE and changes nothing else; 0x00000000 is its only word, and every other word of its opcode
ends with ILLEGAL_OPCODE (0x01). -/
def Obligations.NopCompletes : Prop :=
  (∀ s : State, exec .nop s = .next { s with status := { s.status with done := true, busy := false } }) ∧
  (∀ w : Word, decode w = .command .nop ↔ w = 0x00000000) ∧
  (∀ s : State, s.pendWord.extractLsb' 0 8 = 0x00 → s.pendWord ≠ 0 → s.status.busy = true →
    engineTurn s = .next (errState 0x01 s))

/-- R86: with an empty kernel or an empty matrix, whatever the other one's shape, CONV writes the 0x0 matrix and completes
with DONE. -/
def Obligations.ConvOfEmptyGivesEmpty : Prop :=
  ∀ (d a b : BitVec 4) (s : State), SlotsExist (.conv d a b) s →
    ((source s a).rows = 0 ∨ (source s a).cols = 0 ∨ (source s b).rows = 0 ∨ (source s b).cols = 0) →
    exec (.conv d a b) s = .next (okState d { rows := 0, cols := 0, cells := [] } s)

/-- R87: on a non-empty matrix, a non-empty kernel with an even dimension ends CONV with KERNEL_SHAPE (0x04), and a kernel
of odd dimensions, whatever they are, does not. -/
def Obligations.ConvRefusesEvenKernel : Prop :=
  ∀ (d a b : BitVec 4) (s : State), SlotsExist (.conv d a b) s →
    0 < (source s a).rows → 0 < (source s a).cols → 0 < (source s b).rows → 0 < (source s b).cols →
    (¬OddShaped (source s a) → exec (.conv d a b) s = .next (errState 0x04 s)) ∧
    (OddShaped (source s a) → s.status.err = false → exec (.conv d a b) s ≠ .next (errState 0x04 s))

/-- R88, R89, R90: for a kernel of odd dimensions and a non-empty matrix, CONV writes the exact sums, a matrix of the size
of the source matrix, when every sum is in range; otherwise it ends with OVERFLOW (0x06) and writes nothing. -/
def Obligations.ConvComputesKernelSums : Prop :=
  ∀ (d a b : BitVec 4) (s : State), SlotsExist (.conv d a b) s → OddShaped (source s a) →
    0 < (source s b).rows → 0 < (source s b).cols →
    ((∀ i j, i < (source s b).rows → j < (source s b).cols →
        -2147483648 ≤ kernelSum (source s a) (source s b) i j ∧ kernelSum (source s a) (source s b) i j ≤ 2147483647) →
      ∃ y, exec (.conv d a b) s = .next (okState d y s) ∧
        IsMatrix y (source s b).rows (source s b).cols (kernelSum (source s a) (source s b))) ∧
    ((∃ i j, i < (source s b).rows ∧ j < (source s b).cols ∧
        ¬(-2147483648 ≤ kernelSum (source s a) (source s b) i j ∧ kernelSum (source s a) (source s b) i j ≤ 2147483647)) →
      exec (.conv d a b) s = .next (errState 0x06 s))

/-- R91 items 1 and 2: a zero kernel of odd dimensions gives the zero matrix of the source's dimensions, and the 1x1 kernel
of 1 gives the source itself. -/
def Obligations.ConvByZeroAndByIdentity : Prop :=
  ∀ (d a b : BitVec 4) (s : State), SlotsExist (.conv d a b) s → SlotOk s.params (source s b) →
    0 < (source s b).rows → 0 < (source s b).cols →
    (OddShaped (source s a) → (∀ i j, i < (source s a).rows → j < (source s a).cols → (source s a).get i j = 0) →
      ∃ y, exec (.conv d a b) s = .next (okState d y s) ∧
        IsMatrix y (source s b).rows (source s b).cols fun _ _ => 0) ∧
    (source s a = { rows := 1, cols := 1, cells := [[1]] } →
      exec (.conv d a b) s = .next (okState d (source s b) s))

/-- R91 item 3: a cell of the convolution depends only on the kernel and on the cells within `hr` rows and `hc` columns. -/
def Obligations.ConvCellIsLocal : Prop :=
  ∀ (k x x' : Mat) (i j : Nat), x.rows = x'.rows → x.cols = x'.cols → i < x.rows → j < x.cols →
    (∀ u v, u < x.rows → v < x.cols → u ≤ i + k.rows / 2 → i ≤ u + k.rows / 2 → v ≤ j + k.cols / 2 → j ≤ v + k.cols / 2 →
      x.get u v = x'.get u v) →
    (convSum k x).get i j = (convSum k x').get i j

/-- R91 item 4: the convolution sum is linear in the kernel and in the matrix. -/
def Obligations.ConvIsLinear : Prop :=
  (∀ (k x x' : Mat) (c : Int) (i j : Nat), x.rows = x'.rows → x.cols = x'.cols → i < x.rows → j < x.cols →
    (convSum k (Mat.ofFn x.rows x.cols fun u v => c * x.get u v + x'.get u v)).get i j =
      c * (convSum k x).get i j + (convSum k x').get i j) ∧
  (∀ (k k' x : Mat) (c : Int) (i j : Nat), OddShaped k → k.rows = k'.rows → k.cols = k'.cols → i < x.rows → j < x.cols →
    (convSum (Mat.ofFn k.rows k.cols fun u v => c * k.get u v + k'.get u v) x).get i j =
      c * (convSum k x).get i j + (convSum k' x).get i j)

/-! ### SUM, SQR, ISQRT, REVR -/

/-- R92: SUM ends with DIM_MISMATCH (0x03) on different dimensions, then with OVERFLOW (0x06) if a sum is out of range, and
otherwise writes the exact sums. -/
def Obligations.SumAddsCellwise : Prop :=
  (∀ w : Word, w &&& 0xFFF000FF = 0x00000002 ↔
      decode w = .command (.sum (w.extractLsb' 8 4) (w.extractLsb' 12 4) (w.extractLsb' 16 4))) ∧
  ∀ (d a b : BitVec 4) (s : State), SlotsExist (.sum d a b) s →
    (((source s a).rows ≠ (source s b).rows ∨ (source s a).cols ≠ (source s b).cols) →
      exec (.sum d a b) s = .next (errState 0x03 s)) ∧
    ((source s a).rows = (source s b).rows → (source s a).cols = (source s b).cols →
      ((∃ i j, i < (source s a).rows ∧ j < (source s a).cols ∧
          ¬(-2147483648 ≤ (source s a).get i j + (source s b).get i j ∧
            (source s a).get i j + (source s b).get i j ≤ 2147483647)) →
        exec (.sum d a b) s = .next (errState 0x06 s)) ∧
      ((∀ i j, i < (source s a).rows → j < (source s a).cols →
          -2147483648 ≤ (source s a).get i j + (source s b).get i j ∧
            (source s a).get i j + (source s b).get i j ≤ 2147483647) →
        ∃ y, exec (.sum d a b) s = .next (okState d y s) ∧
          IsMatrix y (source s a).rows (source s a).cols fun i j => (source s a).get i j + (source s b).get i j))

/-- R97 item 2: SUM gives the same result or the same error with its sources exchanged. -/
def Obligations.SumIsCommutative : Prop :=
  ∀ (d a b : BitVec 4) (s : State), exec (.sum d a b) s = exec (.sum d b a) s

/-- R93: SQR ends with OVERFLOW (0x06) exactly when some cell's magnitude is at least 46341, and otherwise writes the
squares, none of them negative. -/
def Obligations.SqrSquaresCellwise : Prop :=
  (∀ w : Word, w &&& 0xFFFF00FF = 0x00000003 ↔ decode w = .command (.sqr (w.extractLsb' 8 4) (w.extractLsb' 12 4))) ∧
  ∀ (d a : BitVec 4) (s : State), SlotsExist (.sqr d a) s →
    ((∃ i j, i < (source s a).rows ∧ j < (source s a).cols ∧ 46341 ≤ |(source s a).get i j|) →
      exec (.sqr d a) s = .next (errState 0x06 s)) ∧
    ((∀ i j, i < (source s a).rows → j < (source s a).cols → |(source s a).get i j| ≤ 46340) →
      ∃ y, exec (.sqr d a) s = .next (okState d y s) ∧
        (IsMatrix y (source s a).rows (source s a).cols fun i j => (source s a).get i j * (source s a).get i j) ∧
        ∀ i j, i < (source s a).rows → j < (source s a).cols → 0 ≤ y.get i j)

/-- R94, R95: ISQRT ends with NEG_SQRT (0x05) if any cell is negative, and otherwise writes for each cell the largest
integer whose square is not above it. -/
def Obligations.IsqrtTakesRootsCellwise : Prop :=
  (∀ w : Word, w &&& 0xFFFF00FF = 0x00000004 ↔ decode w = .command (.isqrt (w.extractLsb' 8 4) (w.extractLsb' 12 4))) ∧
  ∀ (d a : BitVec 4) (s : State), SlotsExist (.isqrt d a) s →
    ((∃ i j, i < (source s a).rows ∧ j < (source s a).cols ∧ (source s a).get i j < 0) →
      exec (.isqrt d a) s = .next (errState 0x05 s)) ∧
    ((∀ i j, i < (source s a).rows → j < (source s a).cols → 0 ≤ (source s a).get i j) →
      ∃ y, exec (.isqrt d a) s = .next (okState d y s) ∧
        y.Shaped ∧ y.rows = (source s a).rows ∧ y.cols = (source s a).cols ∧
        ∀ i j, i < y.rows → j < y.cols →
          0 ≤ y.get i j ∧ y.get i j * y.get i j ≤ (source s a).get i j ∧
            ∀ r : Int, 0 ≤ r → r * r ≤ (source s a).get i j → r ≤ y.get i j)

/-- R95: the integer square root is the largest `r` with `r * r <= x`, for every natural number. -/
def Obligations.IntegerSquareRootIsExact : Prop :=
  ∀ x : Nat, isqrt x * isqrt x ≤ x ∧ ∀ r : Nat, r * r ≤ x → r ≤ isqrt x

/-- R97 items 3 and 4: SQR and then ISQRT give the magnitudes, where every magnitude is at most 46340. -/
def Obligations.SquareThenRootGivesMagnitude : Prop :=
  ∀ (t a u : BitVec 4) (s : State), SlotsExist (.sqr t a) s → SlotsExist (.isqrt u t) s →
    s.slots.length = s.params.numSlots →
    (∀ i j, i < (source s a).rows → j < (source s a).cols → |(source s a).get i j| ≤ 46340) →
    ∃ s1 s2 y, exec (.sqr t a) s = .next s1 ∧ exec (.isqrt u t) s1 = .next s2 ∧ s2 = okState u y s1 ∧
      IsMatrix y (source s a).rows (source s a).cols fun i j => |(source s a).get i j|

/-- R96: REVR writes the rows in reverse order and has no error of its own. -/
def Obligations.RevrReversesRows : Prop :=
  (∀ w : Word, w &&& 0xFFFF00FF = 0x00000005 ↔ decode w = .command (.revr (w.extractLsb' 8 4) (w.extractLsb' 12 4))) ∧
  ∀ (d a : BitVec 4) (s : State), SlotsExist (.revr d a) s →
    ∃ y, exec (.revr d a) s = .next (okState d y s) ∧
      IsMatrix y (source s a).rows (source s a).cols fun i j => (source s a).get ((source s a).rows - 1 - i) j

/-- R97 item 1: REVR twice gives the source matrix back. -/
def Obligations.RevrTwiceIsIdentity : Prop :=
  ∀ (t a u : BitVec 4) (s s1 s2 : State), SlotsExist (.revr t a) s → SlotsExist (.revr u t) s →
    s.slots.length = s.params.numSlots → (source s a).Shaped →
    exec (.revr t a) s = .next s1 → exec (.revr u t) s1 = .next s2 → source s2 u = source s a

/-! ### DECODE -/

/-- R53: the 32-bit field at a byte address is little-endian and signed. -/
def Obligations.HeaderFieldIsLittleEndianSigned : Prop :=
  ∀ (s : State) (addr : Nat),
    le32 s addr =
      (let n : Nat := (bmpRead s addr).toNat + 256 * (bmpRead s (addr + 1)).toNat +
        65536 * (bmpRead s (addr + 2)).toNat + 16777216 * (bmpRead s (addr + 3)).toNat
      if n < 2147483648 then (n : Int) else (n : Int) - 4294967296)

/-- R99: the validity checks of DECODE, in their order: MALFORMED_INPUT (0x07) for a truncated header, then for a width or
height at or below 0, then CAPACITY (0x08), then MALFORMED_INPUT for a truncated pixel plane. -/
def Obligations.DecodeChecksTheBuffer : Prop :=
  ∀ (d : BitVec 4) (s : State), SlotsExist (.decode d) s →
    (s.bmpLen.toNat < 0x1A → exec (.decode d) s = .next (errState 0x07 s)) ∧
    (0x1A ≤ s.bmpLen.toNat →
      (le32 s 0x12 ≤ 0 ∨ le32 s 0x16 ≤ 0 → exec (.decode d) s = .next (errState 0x07 s)) ∧
      (0 < le32 s 0x12 → 0 < le32 s 0x16 →
        ((s.params.maxRows : Int) < le32 s 0x16 ∨ (s.params.maxCols : Int) < le32 s 0x12 →
          exec (.decode d) s = .next (errState 0x08 s)) ∧
        (le32 s 0x16 ≤ s.params.maxRows → le32 s 0x12 ≤ s.params.maxCols →
          (s.bmpLen.toNat : Int) <
            0x36 + (le32 s 0x16 - 1) * (if s.pendStride then le32 s 0x16 else le32 s 0x12) + le32 s 0x12 →
          exec (.decode d) s = .next (errState 0x07 s))))

/-- R98, R100 to R103: on a valid buffer DECODE writes a height-by-width matrix whose row `i` is stored row `H-1-i`, each
cell the byte read as an unsigned number, rows `S` bytes apart, `S` the width or with PEND.stride = 1 the height. -/
def Obligations.DecodeReadsThePixels : Prop :=
  ∀ (d : BitVec 4) (s : State) (h w : Nat), SlotsExist (.decode d) s → 0x1A ≤ s.bmpLen.toNat →
    le32 s 0x12 = w → le32 s 0x16 = h → 0 < w → 0 < h → h ≤ s.params.maxRows → w ≤ s.params.maxCols →
    0x36 + (h - 1) * (if s.pendStride then h else w) + w ≤ s.bmpLen.toNat →
    ∃ y, exec (.decode d) s = .next (okState d y s) ∧
      (IsMatrix y h w fun i j =>
        ((bmpRead s (0x36 + (h - 1 - i) * (if s.pendStride then h else w) + j)).toNat : Int)) ∧
      ∀ i j, i < h → j < w → 0 ≤ y.get i j ∧ y.get i j ≤ 255

/-- R104: no byte outside the two header fields and the pixels has an effect on the result. -/
def Obligations.DecodeIgnoresEveryOtherByte : Prop :=
  ∀ (d : BitVec 4) (s s' t t' : State) (stride : Nat),
    s' = { s with bmp := s'.bmp, bmpDraw := s'.bmpDraw } →
    (∀ addr, 0x12 ≤ addr → addr < 0x1A → bmpRead s' addr = bmpRead s addr) →
    stride = (if s.pendStride then (le32 s 0x16).toNat else (le32 s 0x12).toNat) →
    (∀ i j, i < (le32 s 0x16).toNat → j < (le32 s 0x12).toNat →
      bmpRead s' (0x36 + i * stride + j) = bmpRead s (0x36 + i * stride + j)) →
    exec (.decode d) s = .next t → exec (.decode d) s' = .next t' → t'.slots = t.slots ∧ t'.status = t.status

/-! ### LDK, SOBEL, HOUGH -/

/-- R105, R18: LDK writes Kx for id 0 and Ky for id 1, and ends with BAD_ROM_ID (0x0A) for every other id. -/
def Obligations.LdkLoadsRomKernels : Prop :=
  (∀ w : Word, w &&& 0xFFFF00FF = 0x00000007 ↔ decode w = .command (.ldk (w.extractLsb' 8 4) (w.extractLsb' 12 4))) ∧
  ∀ (d k : BitVec 4) (s : State), SlotsExist (.ldk d k) s →
    (k.toNat = 0 → exec (.ldk d k) s =
      .next (okState d { rows := 3, cols := 3, cells := [[-1, 0, 1], [-2, 0, 2], [-1, 0, 1]] } s)) ∧
    (k.toNat = 1 → exec (.ldk d k) s =
      .next (okState d { rows := 3, cols := 3, cells := [[-1, -2, -1], [0, 0, 0], [1, 2, 1]] } s)) ∧
    (2 ≤ k.toNat → exec (.ldk d k) s = .next (errState 0x0A s))

/-- R106, R108 item 3: SOBEL of an empty matrix writes the 0x0 matrix; of any other it ends with OVERFLOW (0x06) exactly
when some `Gx^2 + Gy^2` is above 2^31-1, and otherwise writes the integer square roots of these sums. -/
def Obligations.SobelComputesMagnitudes : Prop :=
  (∀ w : Word, w &&& 0xFFFF00FF = 0x00000008 ↔ decode w = .command (.sobel (w.extractLsb' 8 4) (w.extractLsb' 12 4))) ∧
  ∀ (d a : BitVec 4) (s : State), SlotsExist (.sobel d a) s →
    ((source s a).rows = 0 ∨ (source s a).cols = 0 →
      exec (.sobel d a) s = .next (okState d { rows := 0, cols := 0, cells := [] } s)) ∧
    (0 < (source s a).rows → 0 < (source s a).cols →
      ((∃ i j, i < (source s a).rows ∧ j < (source s a).cols ∧
          2147483647 < kernelSum kernelKx (source s a) i j ^ 2 + kernelSum kernelKy (source s a) i j ^ 2) →
        exec (.sobel d a) s = .next (errState 0x06 s)) ∧
      ((∀ i j, i < (source s a).rows → j < (source s a).cols →
          kernelSum kernelKx (source s a) i j ^ 2 + kernelSum kernelKy (source s a) i j ^ 2 ≤ 2147483647) →
        ∃ y, exec (.sobel d a) s = .next (okState d y s) ∧
          y.Shaped ∧ y.rows = (source s a).rows ∧ y.cols = (source s a).cols ∧
          ∀ i j, i < y.rows → j < y.cols → 0 ≤ y.get i j ∧
            y.get i j ^ 2 ≤ kernelSum kernelKx (source s a) i j ^ 2 + kernelSum kernelKy (source s a) i j ^ 2 ∧
            kernelSum kernelKx (source s a) i j ^ 2 + kernelSum kernelKy (source s a) i j ^ 2 < (y.get i j + 1) ^ 2))

/-- R108 item 1: SOBEL is the composition of its command sequence: where SOBEL completes, the sequence completes and leaves
the same matrix in the destination, changing no slot but the destination and the scratch slots; where SOBEL ends with
OVERFLOW, the sequence stops at a command that ends with OVERFLOW and the destination is not written. Each command of the
sequence is issued as an accepted CMD write issues it, and so with no command pending before it. -/
def Obligations.SobelIsItsCommandSequence : Prop :=
  ∀ (d a t1 t2 t3 : BitVec 4) (s : State),
    s.status.err = false → s.slots.length = s.params.numSlots → (∀ f ∈ [d, a, t1, t2, t3], f.toNat < s.params.numSlots) →
    t1 ≠ t2 → t1 ≠ t3 → t2 ≠ t3 → (∀ t ∈ [t1, t2, t3], t ≠ a ∧ t ≠ d) →
    (∀ y, exec (.sobel d a) s = .next (okState d y s) →
      source (runSequence (sobelSequence d a t1 t2 t3) s) d = y ∧
      (runSequence (sobelSequence d a t1 t2 t3) s).status.err = false ∧
      ∀ f : BitVec 4, f ≠ d → f ≠ t1 → f ≠ t2 → f ≠ t3 →
        source (runSequence (sobelSequence d a t1 t2 t3) s) f = source s f) ∧
    (exec (.sobel d a) s = .next (errState 0x06 s) →
      (runSequence (sobelSequence d a t1 t2 t3) s).status.err = true ∧
      (runSequence (sobelSequence d a t1 t2 t3) s).status.errCode = 0x06 ∧
      source (runSequence (sobelSequence d a t1 t2 t3) s) d = source s d)

/-- R108 item 2: the interior of the SOBEL result on a constant matrix is 0. -/
def Obligations.SobelOfConstantIsZeroInside : Prop :=
  ∀ (d a : BitVec 4) (s : State) (y : Mat) (c : Int), SlotsExist (.sobel d a) s → s.slots.length = s.params.numSlots →
    s.status.err = false → 3 ≤ (source s a).rows → 3 ≤ (source s a).cols →
    (∀ i j, i < (source s a).rows → j < (source s a).cols → (source s a).get i j = c) →
    exec (.sobel d a) s = .next (okState d y s) →
    ∀ i j, 1 ≤ i → i + 2 ≤ (source s a).rows → 1 ≤ j → j + 2 ≤ (source s a).cols → y.get i j = 0

/-- R108 item 4: on cells in 0..255, as DECODE writes them (R103), SOBEL completes and every result cell is at most 1442. -/
def Obligations.SobelOfBytesNeverOverflows : Prop :=
  ∀ (d a : BitVec 4) (s : State), SlotsExist (.sobel d a) s → 0 < (source s a).rows → 0 < (source s a).cols →
    (∀ i j, i < (source s a).rows → j < (source s a).cols → 0 ≤ (source s a).get i j ∧ (source s a).get i j ≤ 255) →
    ∃ y, exec (.sobel d a) s = .next (okState d y s) ∧ y.rows = (source s a).rows ∧ y.cols = (source s a).cols ∧
      ∀ i j, i < y.rows → j < y.cols → 0 ≤ y.get i j ∧ y.get i j ≤ 1442

/-- R107: HOUGH always ends with NOT_IMPLEMENTED (0x09) once the dispatch checks have passed, and writes no slot. -/
def Obligations.HoughReportsNotImplemented : Prop :=
  (∀ w : Word, w &&& 0xFFFF00FF = 0x00000009 ↔ decode w = .command (.hough (w.extractLsb' 8 4) (w.extractLsb' 12 4))) ∧
  (∀ (d a : BitVec 4) (s : State), SlotsExist (.hough d a) s → exec (.hough d a) s = .next (errState 0x09 s)) ∧
  (∀ (d a : BitVec 4) (s t : State), exec (.hough d a) s = .next t → t.slots = s.slots)

/-! ### Host accesses -/

/-- R46, R47, R48: an access of another size or at an offset that is no multiple of 4, an access at 0x3C, and a write to a
read-only register are refused with ACCESS (0x04), whether or not a command is pending. -/
def Obligations.ForbiddenAccessesAreRefused : Prop :=
  ∀ (a : Access) (s : State),
    (a.size ≠ 4 ∨ a.off.toNat % 4 ≠ 0 → hostAccess a s = refusedState a.kind 0x04 s) ∧
    (a.size = 4 → a.off = 0x3C → hostAccess a s = refusedState a.kind 0x04 s) ∧
    (a.size = 4 → a.kind = .write → a.off ∈ ([0x00, 0x04, 0x08, 0x0C] : List (BitVec 6)) →
      hostAccess a s = refusedState .write 0x04 s)

/-- R43, R44, R56: every access is refused (it changes only HOST_ERR and HOST_ERRCODE, and a refused read returns 0), or is a
read that returns one value and changes nothing else, or is a write that records no host error; a refused access never
changes the IRQ output. -/
def Obligations.AccessesAreRefusedOrTakeEffect : Prop :=
  ∀ (a : Access) (s : State),
    ((∃ code : BitVec 8, 1 ≤ code.toNat ∧ code.toNat ≤ 4 ∧ hostAccess a s = refusedState a.kind code s) ∨
      (a.kind = .read ∧ ∃ v, hostAccess a s = readState v s) ∨
      (a.kind = .write ∧ (hostAccess a s).reads = s.reads ∧
        ((hostAccess a s).status.hostErrCode = s.status.hostErrCode ∨ (hostAccess a s).status.hostErrCode = 0))) ∧
    (∀ (k : AccessKind) (code : BitVec 8), irq (refusedState k code s) = irq s)

/-- R20 to R23, R26, R27, R30, R32, R33, R49: the values of the reads that are never refused, idle or busy. -/
def Obligations.UnguardedReadsReturnRegisters : Prop :=
  ∀ s : State,
    hostAccess (readAt 0x00) s = readState 0x434E5632 s ∧
    hostAccess (readAt 0x04) s =
      readState (BitVec.ofNat 32 (s.params.maxCols % 65536 * 65536 + s.params.maxRows % 65536)) s ∧
    hostAccess (readAt 0x08) s = readState (BitVec.ofNat 32 (0x2000 + s.params.numSlots % 256)) s ∧
    hostAccess (readAt 0x0C) s = readState (BitVec.ofNat 32 s.params.bmpBufBytes) s ∧
    hostAccess (readAt 0x10) s = readState (BitVec.ofNat 32 (s.ctrl.irqEn.toNat + 2 * s.ctrl.bmpStride.toNat)) s ∧
    hostAccess (readAt 0x14) s = readState (BitVec.ofNat 32 (s.status.busy.toNat + 2 * s.status.done.toNat +
      4 * s.status.err.toNat + 8 * s.status.hostErr.toNat + 256 * s.status.errCode.toNat +
      65536 * s.status.hostErrCode.toNat)) s ∧
    hostAccess (readAt 0x18) s = readState s.cmd s ∧
    hostAccess (readAt 0x1C) s = readState (BitVec.ofNat 32 s.slotSel.toNat) s ∧
    hostAccess (readAt 0x28) s = readState s.cellAddr s ∧
    hostAccess (readAt 0x30) s = readState s.bmpLen s ∧
    hostAccess (readAt 0x34) s = readState s.bmpAddr s

/-- R24: a CTRL write with bit 2 clear stores bits 1:0 and ignores the reserved bits, idle or busy. -/
def Obligations.CtrlWriteStoresTwoBits : Prop :=
  ∀ (v : Word) (s : State), v.getLsbD 2 = false →
    hostAccess (writeAt 0x10 v) s = { s with ctrl := { irqEn := v.getLsbD 0, bmpStride := v.getLsbD 1 } }

/-- R25, R112: a STATUS write clears DONE, ERR with ERRCODE, and HOST_ERR with HOST_ERRCODE where it writes 1, and changes
nothing else; it is never refused, idle or busy. -/
def Obligations.StatusWriteClearsBits : Prop :=
  ∀ (v : Word) (s : State),
    hostAccess (writeAt 0x14 v) s =
      { s with status :=
        { busy := s.status.busy
          done := if v.getLsbD 1 then false else s.status.done
          err := if v.getLsbD 2 then false else s.status.err
          errCode := if v.getLsbD 2 then 0 else s.status.errCode
          hostErr := if v.getLsbD 3 then false else s.status.hostErr
          hostErrCode := if v.getLsbD 3 then 0 else s.status.hostErrCode } }

/-- R74, R26, R126: with no command pending a CMD write of any value is accepted; with one pending it is refused with BUSY
(0x01) and nothing is queued. -/
def Obligations.CmdWriteIssuesOneCommand : Prop :=
  ∀ (v : Word) (s : State),
    (s.status.busy = false → hostAccess (writeAt 0x18 v) s =
      { s with
        cmd := v
        pendWord := v
        pendStride := s.ctrl.bmpStride
        status := { s.status with busy := true, done := false, err := false, errCode := 0 } }) ∧
    (s.status.busy = true → hostAccess (writeAt 0x18 v) s = refusedState .write 0x01 s)

/-- R27, R30, R33: the selector writes, idle or busy; SLOT_SEL refuses a value at or above NUM_SLOTS with VALUE (0x03). -/
def Obligations.SelectorWrites : Prop :=
  ∀ (v : Word) (s : State),
    (v.toNat < s.params.numSlots → s.params.numSlots ≤ 16 →
      hostAccess (writeAt 0x1C v) s = { s with slotSel := BitVec.ofNat 4 v.toNat }) ∧
    (s.params.numSlots ≤ v.toNat → hostAccess (writeAt 0x1C v) s = refusedState .write 0x03 s) ∧
    hostAccess (writeAt 0x28 v) s = { s with cellAddr := v } ∧
    hostAccess (writeAt 0x34 v) s = { s with bmpAddr := v }

/-- R32: a BMP_LEN write above BMP_BUF_BYTES is refused with VALUE (0x03) and LEN keeps its value; any other is stored. -/
def Obligations.BmpLenWrite : Prop :=
  ∀ (v : Word) (s : State), s.status.busy = false →
    (v.toNat ≤ s.params.bmpBufBytes → hostAccess (writeAt 0x30 v) s = { s with bmpLen := v }) ∧
    (s.params.bmpBufBytes < v.toNat → hostAccess (writeAt 0x30 v) s = refusedState .write 0x03 s)

/-- R50: with no command pending, a dimension write replaces the selected slot by the all-zero matrix of the new dimensions
(even an equal value clears it), or is refused with VALUE (0x03) above the maximum; dimension reads return the dimensions. -/
def Obligations.DimensionWritesClearTheSlot : Prop :=
  ∀ (v : Word) (s : State), s.status.busy = false → s.slotSel.toNat < s.slots.length →
    (v.toNat ≤ s.params.maxRows → ∃ y,
      hostAccess (writeAt 0x20 v) s = { s with slots := s.slots.set s.slotSel.toNat y } ∧
      IsMatrix y v.toNat (source s s.slotSel).cols fun _ _ => 0) ∧
    (s.params.maxRows < v.toNat → hostAccess (writeAt 0x20 v) s = refusedState .write 0x03 s) ∧
    (v.toNat ≤ s.params.maxCols → ∃ y,
      hostAccess (writeAt 0x24 v) s = { s with slots := s.slots.set s.slotSel.toNat y } ∧
      IsMatrix y (source s s.slotSel).rows v.toNat fun _ _ => 0) ∧
    (s.params.maxCols < v.toNat → hostAccess (writeAt 0x24 v) s = refusedState .write 0x03 s) ∧
    ((source s s.slotSel).rows < 65536 →
      hostAccess (readAt 0x20) s = readState (BitVec.ofNat 32 (source s s.slotSel).rows) s) ∧
    ((source s s.slotSel).cols < 65536 →
      hostAccess (readAt 0x24) s = readState (BitVec.ofNat 32 (source s s.slotSel).cols) s)

/-- R51: with no command pending, CELL_DATA reads and writes the selected cell as a whole two's-complement word and leaves
every other cell as it was; outside the slot's dimensions it is refused with RANGE (0x02). -/
def Obligations.CellDataReachesOneCell : Prop :=
  ∀ (v : Word) (s : State), s.status.busy = false → s.slotSel.toNat < s.slots.length → (source s s.slotSel).Shaped →
    ((source s s.slotSel).rows ≤ (s.cellAddr.extractLsb' 16 16).toNat ∨
        (source s s.slotSel).cols ≤ (s.cellAddr.extractLsb' 0 16).toNat →
      hostAccess (readAt 0x2C) s = refusedState .read 0x02 s ∧
      hostAccess (writeAt 0x2C v) s = refusedState .write 0x02 s) ∧
    ((s.cellAddr.extractLsb' 16 16).toNat < (source s s.slotSel).rows →
        (s.cellAddr.extractLsb' 0 16).toNat < (source s s.slotSel).cols →
      hostAccess (readAt 0x2C) s = readState (BitVec.ofInt 32
        ((source s s.slotSel).get (s.cellAddr.extractLsb' 16 16).toNat (s.cellAddr.extractLsb' 0 16).toNat)) s ∧
      (∃ y, hostAccess (writeAt 0x2C v) s = { s with slots := s.slots.set s.slotSel.toNat y } ∧
        IsMatrix y (source s s.slotSel).rows (source s s.slotSel).cols fun i j =>
          if i = (s.cellAddr.extractLsb' 16 16).toNat ∧ j = (s.cellAddr.extractLsb' 0 16).toNat then v.toInt
          else (source s s.slotSel).get i j) ∧
      hostAccess (readAt 0x2C) (hostAccess (writeAt 0x2C v) s) = readState v (hostAccess (writeAt 0x2C v) s))

/-- R52, R63: with no command pending, BMP_DATA reads and writes one byte (bits 31:8 are ignored and read 0) and leaves
every other byte as it was; at or past BMP_BUF_BYTES it is refused with RANGE (0x02). -/
def Obligations.BmpDataReachesOneByte : Prop :=
  ∀ (v : Word) (s : State), s.status.busy = false →
    (s.params.bmpBufBytes ≤ s.bmpAddr.toNat →
      hostAccess (readAt 0x38) s = refusedState .read 0x02 s ∧
      hostAccess (writeAt 0x38 v) s = refusedState .write 0x02 s) ∧
    (s.bmpAddr.toNat < s.params.bmpBufBytes →
      hostAccess (readAt 0x38) s = readState (BitVec.ofNat 32 (bmpRead s s.bmpAddr.toNat).toNat) s ∧
      hostAccess (writeAt 0x38 v) s = { s with bmp := (hostAccess (writeAt 0x38 v) s).bmp } ∧
      ∀ addr, bmpRead (hostAccess (writeAt 0x38 v) s) addr =
        if addr = s.bmpAddr.toNat then BitVec.ofNat 8 v.toNat else bmpRead s addr)

/-- R125: while a command is pending the guarded accesses are refused with BUSY (0x01), and no access to another register is
refused with BUSY (which of them succeed, and how, other statements say). -/
def Obligations.BusyGuardRefusesGuardedAccesses : Prop :=
  ∀ (v : Word) (s : State), s.status.busy = true →
    (∀ off ∈ ([0x18, 0x20, 0x24, 0x2C, 0x30, 0x38] : List (BitVec 6)),
      hostAccess (writeAt off v) s = refusedState .write 0x01 s) ∧
    (∀ off ∈ ([0x20, 0x24, 0x2C, 0x38] : List (BitVec 6)), hostAccess (readAt off) s = refusedState .read 0x01 s) ∧
    (∀ off ∈ ([0x00, 0x04, 0x08, 0x0C, 0x10, 0x14, 0x18, 0x1C, 0x28, 0x30, 0x34] : List (BitVec 6)),
      ∃ w, hostAccess (readAt off) s = readState w s) ∧
    (∀ off ∈ ([0x10, 0x14, 0x1C, 0x28, 0x34] : List (BitVec 6)),
      (hostAccess (writeAt off v) s).status.hostErrCode = 0x01 → s.status.hostErrCode = 0x01)

/-- R125 (its last sentence), R62, R129: while a command is pending, no Host access but a soft reset changes anything the
command reads or writes: the pending word, the sampled stride, the slots, the bitmap buffer, BMP_LEN, and BUSY itself. -/
def Obligations.HostCannotDisturbPendingCommand : Prop :=
  ∀ (a : Access) (s : State), s.status.busy = true → ¬isSoftReset a →
    (hostAccess a s).pendWord = s.pendWord ∧ (hostAccess a s).pendStride = s.pendStride ∧
    (hostAccess a s).slots = s.slots ∧ (∀ addr, bmpRead (hostAccess a s) addr = bmpRead s addr) ∧
    (hostAccess a s).bmpLen = s.bmpLen ∧ (hostAccess a s).params = s.params ∧
    (hostAccess a s).status.busy = true

/-- R60, R125 (its last sentence): while a command is pending the Host sees nothing of the slots or the bitmap buffer: two
busy states that differ only there answer every access alike and go on to states that differ only there. -/
def Obligations.HostSeesNoSlotOrByteWhileBusy : Prop :=
  ∀ (a : Access) (s s' : State), s.status.busy = true → s' = { s with slots := s'.slots, bmp := s'.bmp, bmpDraw := s'.bmpDraw } →
    (hostAccess a s').reads = (hostAccess a s).reads ∧ (hostAccess a s').status = (hostAccess a s).status ∧
    irq (hostAccess a s') = irq (hostAccess a s) ∧
    hostAccess a s' = { hostAccess a s with
      slots := (hostAccess a s').slots, bmp := (hostAccess a s').bmp, bmpDraw := (hostAccess a s').bmpDraw }

/-! ### Resets and the interrupt line -/

/-- R123, R24: a CTRL write with bit 2 set, idle or busy, takes every register and slot to its reset value, discards a
pending command and keeps the bitmap buffer. (PEND is unspecified after it and is not stated.) -/
def Obligations.SoftResetKeepsBitmapOnly : Prop :=
  ∀ (v : Word) (s : State), v.getLsbD 2 = true →
    ∃ t, hostAccess (writeAt 0x10 v) s = t ∧
      t.slots = List.replicate s.params.numSlots { rows := 0, cols := 0, cells := [] } ∧
      t.ctrl = { irqEn := false, bmpStride := false } ∧
      t.status = { busy := false, done := false, err := false, hostErr := false, errCode := 0, hostErrCode := 0 } ∧
      t.cmd = 0 ∧ t.slotSel = 0 ∧ t.cellAddr = 0 ∧ t.bmpLen = 0 ∧ t.bmpAddr = 0 ∧
      (∀ addr, bmpRead t addr = bmpRead s addr) ∧ irq t = false ∧
      t.params = s.params ∧ t.turns = s.turns ∧ t.reads = s.reads

/-- R122, R39, R38: a hardware reset turn takes every register and slot to its reset value, discards a pending command, and
takes a fresh draw of the bitmap buffer: no byte written before it is kept. (That the draws are numbered is the model's
form of a fresh draw, log entry 2; PEND is unspecified and not stated.) -/
def Obligations.HardResetValues : Prop :=
  ∀ (s : State) (rest : List Turn), s.turns = .hardReset :: rest →
    ∃ t, step s = .next t ∧
      t.slots = List.replicate s.params.numSlots { rows := 0, cols := 0, cells := [] } ∧
      t.ctrl = { irqEn := false, bmpStride := false } ∧
      t.status = { busy := false, done := false, err := false, hostErr := false, errCode := 0, hostErrCode := 0 } ∧
      t.cmd = 0 ∧ t.slotSel = 0 ∧ t.cellAddr = 0 ∧ t.bmpLen = 0 ∧ t.bmpAddr = 0 ∧
      (∀ addr, bmpRead t addr = Config.drawnByte (s.bmpDraw + 1) addr) ∧ irq t = false ∧
      t.params = s.params ∧ t.turns = rest ∧ t.reads = s.reads

/-- R39, R6: the state after reset: the registers at their reset values, every slot empty. That it carries the default
parameters is the model's choice (log entry 1); PEND is unspecified, BASE is the platform's (R41), and neither is stated. -/
def Obligations.ResetValues : Prop :=
  State.reset.slots = List.replicate 8 { rows := 0, cols := 0, cells := [] } ∧
  State.reset.params =
    { numSlots := 8, maxRows := 256, maxCols := 256, bmpBufBytes := 65590, base := State.reset.params.base } ∧
  State.reset.ctrl = { irqEn := false, bmpStride := false } ∧
  State.reset.status = { busy := false, done := false, err := false, hostErr := false, errCode := 0, hostErrCode := 0 } ∧
  State.reset.cmd = 0 ∧ State.reset.slotSel = 0 ∧ State.reset.cellAddr = 0 ∧ State.reset.bmpLen = 0 ∧
  State.reset.bmpAddr = 0 ∧ irq State.reset = false

/-- R113, R114: IRQ is IRQ_EN and (DONE or ERR). It falls when a STATUS write clears every set bit among DONE and ERR, when
CTRL is written with IRQ_EN = 0, when a command is accepted, and at a reset; it rises when an Engine step completes while
IRQ_EN = 1, and when IRQ_EN is set while DONE or ERR is 1. -/
def Obligations.IrqFallsAndRises : Prop :=
  ∀ s : State,
    (irq s = true ↔ s.ctrl.irqEn = true ∧ (s.status.done = true ∨ s.status.err = true)) ∧
    (∀ v : Word, (s.status.done = true → v.getLsbD 1 = true) → (s.status.err = true → v.getLsbD 2 = true) →
      irq (hostAccess (writeAt 0x14 v) s) = false) ∧
    (∀ v : Word, v.getLsbD 0 = false → irq (hostAccess (writeAt 0x10 v) s) = false) ∧
    (∀ v : Word, s.status.busy = false → irq (hostAccess (writeAt 0x18 v) s) = false) ∧
    (∀ v : Word, v.getLsbD 2 = true → irq (hostAccess (writeAt 0x10 v) s) = false) ∧
    irq (hardReset s) = false ∧
    (∀ t, s.status.busy = true → s.ctrl.irqEn = true → engineTurn s = .next t → irq t = true) ∧
    (∀ v : Word, v.getLsbD 2 = false → v.getLsbD 0 = true → (s.status.done = true ∨ s.status.err = true) →
      irq (hostAccess (writeAt 0x10 v) s) = true)
end

