-- ==== Sys2Proof/Laws/Decode.lean ====
section
/-! SUPPORT. The fields of a word in the format CMD32 (30_encoding.md R64). -/

namespace Sys2Proof

/-- Concatenation as arithmetic: the high part counts in units of the low part's width (R8). -/
theorem toNat_append_add {m n : Nat} (x : BitVec m) (y : BitVec n) :
    (x ++ y).toNat = x.toNat * 2 ^ n + y.toNat := by
  rw [BitVec.toNat_append, ← Nat.shiftLeft_add_eq_or_of_lt y.isLt, Nat.shiftLeft_eq]

/-- CMD32 as the sum of its shifted fields (R64). -/
theorem toNat_cmd32 (b a d : BitVec 4) (opc : BitVec 8) :
    (cmd32 b a d opc).toNat = b.toNat * 65536 + a.toNat * 4096 + d.toNat * 256 + opc.toNat := by
  simp only [cmd32, toNat_append_add, BitVec.toNat_ofNat]
  omega

@[simp] theorem opcField_cmd32 (b a d : BitVec 4) (opc : BitVec 8) : opcField (cmd32 b a d opc) = opc := by
  have := b.isLt; have := a.isLt; have := d.isLt; have := opc.isLt
  refine BitVec.eq_of_toNat_eq ?_
  simp only [opcField, BitVec.extractLsb'_toNat, Nat.shiftRight_eq_div_pow, toNat_cmd32]
  omega

@[simp] theorem dField_cmd32 (b a d : BitVec 4) (opc : BitVec 8) : dField (cmd32 b a d opc) = d := by
  have := b.isLt; have := a.isLt; have := d.isLt; have := opc.isLt
  refine BitVec.eq_of_toNat_eq ?_
  simp only [dField, BitVec.extractLsb'_toNat, Nat.shiftRight_eq_div_pow, toNat_cmd32]
  omega

@[simp] theorem aField_cmd32 (b a d : BitVec 4) (opc : BitVec 8) : aField (cmd32 b a d opc) = a := by
  have := b.isLt; have := a.isLt; have := d.isLt; have := opc.isLt
  refine BitVec.eq_of_toNat_eq ?_
  simp only [aField, BitVec.extractLsb'_toNat, Nat.shiftRight_eq_div_pow, toNat_cmd32]
  omega

@[simp] theorem bField_cmd32 (b a d : BitVec 4) (opc : BitVec 8) : bField (cmd32 b a d opc) = b := by
  have := b.isLt; have := a.isLt; have := d.isLt; have := opc.isLt
  refine BitVec.eq_of_toNat_eq ?_
  simp only [bField, BitVec.extractLsb'_toNat, Nat.shiftRight_eq_div_pow, toNat_cmd32]
  omega

@[simp] theorem zField_cmd32 (b a d : BitVec 4) (opc : BitVec 8) : zField (cmd32 b a d opc) = 0 := by
  have := b.isLt; have := a.isLt; have := d.isLt; have := opc.isLt
  refine BitVec.eq_of_toNat_eq ?_
  simp only [zField, BitVec.extractLsb'_toNat, Nat.shiftRight_eq_div_pow, toNat_cmd32]
  show _ = 0
  omega

/-- A word is made of its five fields (R64). -/
theorem word_eq_fields (w : Word) : zField w ++ bField w ++ aField w ++ dField w ++ opcField w = w := by
  have := w.isLt
  refine BitVec.eq_of_toNat_eq ?_
  simp only [toNat_append_add, zField, bField, aField, dField, opcField, BitVec.extractLsb'_toNat,
    Nat.shiftRight_eq_div_pow]
  omega

end Sys2Proof
end

