-- ==== Sys2Proof/Laws/Memory.lean ====
section
/-! SUPPORT. The bitmap buffer's contents: what a store changes, and that every operation keeps the canonical form. -/

namespace Sys2Proof.Machine

@[simp] theorem Memory.lookup_store_self (addr : Nat) (v : Byte) (m : Memory) :
    Memory.lookup addr (Memory.store addr v m) = some v := by
  induction m with
  | nil => simp [Memory.store, Memory.lookup]
  | cons c rest ih =>
    obtain ⟨a, b⟩ := c
    simp only [Memory.store]
    split
    · simp [Memory.lookup]
    · split
      · simp [Memory.lookup]
      · rename_i h
        simp [Memory.lookup, Ne.symm h, ih]

theorem Memory.lookup_store_ne {addr other : Nat} (h : other ≠ addr) (v : Byte) (m : Memory) :
    Memory.lookup other (Memory.store addr v m) = Memory.lookup other m := by
  induction m with
  | nil => simp [Memory.store, Memory.lookup, Ne.symm h]
  | cons c rest ih =>
    obtain ⟨a, b⟩ := c
    simp only [Memory.store]
    split
    · simp [Memory.lookup, Ne.symm h]
    · split
      · rename_i h2
        subst h2
        simp [Memory.lookup, Ne.symm h]
      · simp only [Memory.lookup, ih]

/-- The addresses after a store are those before it and the address stored to. -/
theorem Memory.mem_store {addr : Nat} {v : Byte} {m : Memory} {c : Host.Cell} (h : c ∈ Memory.store addr v m) :
    c.1 = addr ∨ c ∈ m := by
  induction m with
  | nil =>
    simp only [Memory.store, List.mem_singleton] at h
    exact .inl (by rw [h])
  | cons d rest ih =>
    obtain ⟨a, b⟩ := d
    simp only [Memory.store] at h
    split at h
    · rcases List.mem_cons.mp h with rfl | h
      · exact .inl rfl
      · exact .inr h
    · split at h
      · rcases List.mem_cons.mp h with rfl | h
        · exact .inl rfl
        · exact .inr (List.mem_cons_of_mem _ h)
      · rcases List.mem_cons.mp h with rfl | h
        · exact .inr List.mem_cons_self
        · exact (ih h).imp id (List.mem_cons_of_mem _)

theorem Memory.wf_nil : Memory.wf [] := List.Pairwise.nil

/-- A store keeps the canonical form. -/
theorem Memory.wf_store {m : Memory} (h : Memory.wf m) (addr : Nat) (v : Byte) : Memory.wf (Memory.store addr v m) := by
  induction m with
  | nil => simp [Memory.store, Memory.wf]
  | cons c rest ih =>
    obtain ⟨a, b⟩ := c
    obtain ⟨h1, h2⟩ := List.pairwise_cons.mp h
    simp only [Memory.store]
    split
    · rename_i hlt
      refine List.pairwise_cons.mpr ⟨fun d hd => ?_, h⟩
      rcases List.mem_cons.mp hd with rfl | hd
      · exact hlt
      · exact lt_trans hlt (h1 d hd)
    · split
      · rename_i heq
        subst heq
        exact List.pairwise_cons.mpr ⟨h1, h2⟩
      · rename_i hlt hne
        refine List.pairwise_cons.mpr ⟨fun d hd => ?_, ih h2⟩
        rcases Memory.mem_store hd with h3 | h3
        · show a < d.1
          omega
        · exact h1 d h3

/-- The memory after reset has the canonical form. -/
theorem Memory.wf_reset : Memory.wf State.reset.bmp := Memory.wf_nil

/-- Equal contents have equal data: two canonical lists with the same written values are the same list. -/
theorem Memory.ext_lookup {m n : Memory} (hm : Memory.wf m) (hn : Memory.wf n)
    (h : ∀ a, Memory.lookup a m = Memory.lookup a n) : m = n := by
  have none_of_lt : ∀ (l : Memory) (a : Nat), (∀ c ∈ l, a < c.1) → Memory.lookup a l = none := by
    intro l a hl
    induction l with
    | nil => rfl
    | cons c rest ih =>
      obtain ⟨x, y⟩ := c
      have := hl (x, y) List.mem_cons_self
      simp only at this
      simp [Memory.lookup, Nat.ne_of_gt this, ih fun d hd => hl d (List.mem_cons_of_mem _ hd)]
  induction m generalizing n with
  | nil =>
    cases n with
    | nil => rfl
    | cons d rest =>
      have := h d.1
      simp [Memory.lookup] at this
  | cons c rest ih =>
    obtain ⟨a, b⟩ := c
    obtain ⟨hm1, hm2⟩ := List.pairwise_cons.mp hm
    cases n with
    | nil =>
      have := h a
      simp [Memory.lookup] at this
    | cons d rest' =>
      obtain ⟨a', b'⟩ := d
      obtain ⟨hn1, hn2⟩ := List.pairwise_cons.mp hn
      have hlook : ∀ x y z, Memory.lookup z ((x, y) :: rest) = if x = z then some y else Memory.lookup z rest :=
        fun _ _ _ => rfl
      have haa : a = a' := by
        rcases Nat.lt_trichotomy a a' with hlt | heq | hlt
        · have := h a
          rw [none_of_lt ((a', b') :: rest') a (fun c hc => by
            rcases List.mem_cons.mp hc with rfl | hc
            · exact hlt
            · exact lt_trans hlt (hn1 c hc))] at this
          simp [Memory.lookup] at this
        · exact heq
        · have := h a'
          rw [none_of_lt ((a, b) :: rest) a' (fun c hc => by
            rcases List.mem_cons.mp hc with rfl | hc
            · exact hlt
            · exact lt_trans hlt (hm1 c hc))] at this
          simp [Memory.lookup] at this
      subst haa
      have hb := h a
      simp only [Memory.lookup, if_true, Option.some.injEq] at hb
      subst hb
      congr 1
      refine ih hm2 hn2 fun z => ?_
      by_cases hz : a = z
      · subst hz
        rw [none_of_lt rest a hm1, none_of_lt rest' a hn1]
      · simpa [Memory.lookup, hz] using h z

@[simp] theorem bmpRead_bmpWrite_self (addr : Nat) (v : Byte) (s : State) : bmpRead (bmpWrite addr v s) addr = v := by
  simp [bmpRead, bmpWrite]

theorem bmpRead_bmpWrite_ne {addr other : Nat} (h : other ≠ addr) (v : Byte) (s : State) :
    bmpRead (bmpWrite addr v s) other = bmpRead s other := by
  simp only [bmpRead, bmpWrite, Memory.lookup_store_ne h]

/-- A byte of the buffer depends on its contents and on the draw alone. -/
theorem bmpRead_congr {s t : State} (h1 : t.bmp = s.bmp) (h2 : t.bmpDraw = s.bmpDraw) (addr : Nat) :
    bmpRead t addr = bmpRead s addr := by
  simp only [bmpRead, h1, h2]

theorem le32_congr {s t : State} (h1 : t.bmp = s.bmp) (h2 : t.bmpDraw = s.bmpDraw) (addr : Nat) :
    le32 t addr = le32 s addr := by
  simp only [le32, bmpRead_congr h1 h2]

end Sys2Proof.Machine
end

