-- ==== Sys2Proof/Laws/State.lean ====
section
/-! SUPPORT. One lemma for each field after each update of the state, so that no later proof unfolds an update. -/

namespace Sys2Proof.Machine

/-! ### slotWrite -/

@[simp] theorem slotWrite_params (n : Nat) (x : Mat) (s : State) : (slotWrite n x s).params = s.params := rfl
@[simp] theorem slotWrite_slots (n : Nat) (x : Mat) (s : State) : (slotWrite n x s).slots = s.slots.set n x := rfl
@[simp] theorem slotWrite_bmp (n : Nat) (x : Mat) (s : State) : (slotWrite n x s).bmp = s.bmp := rfl
@[simp] theorem slotWrite_bmpDraw (n : Nat) (x : Mat) (s : State) : (slotWrite n x s).bmpDraw = s.bmpDraw := rfl
@[simp] theorem slotWrite_ctrl (n : Nat) (x : Mat) (s : State) : (slotWrite n x s).ctrl = s.ctrl := rfl
@[simp] theorem slotWrite_status (n : Nat) (x : Mat) (s : State) : (slotWrite n x s).status = s.status := rfl
@[simp] theorem slotWrite_cmd (n : Nat) (x : Mat) (s : State) : (slotWrite n x s).cmd = s.cmd := rfl
@[simp] theorem slotWrite_slotSel (n : Nat) (x : Mat) (s : State) : (slotWrite n x s).slotSel = s.slotSel := rfl
@[simp] theorem slotWrite_cellAddr (n : Nat) (x : Mat) (s : State) : (slotWrite n x s).cellAddr = s.cellAddr := rfl
@[simp] theorem slotWrite_bmpLen (n : Nat) (x : Mat) (s : State) : (slotWrite n x s).bmpLen = s.bmpLen := rfl
@[simp] theorem slotWrite_bmpAddr (n : Nat) (x : Mat) (s : State) : (slotWrite n x s).bmpAddr = s.bmpAddr := rfl
@[simp] theorem slotWrite_pendWord (n : Nat) (x : Mat) (s : State) : (slotWrite n x s).pendWord = s.pendWord := rfl
@[simp] theorem slotWrite_pendStride (n : Nat) (x : Mat) (s : State) : (slotWrite n x s).pendStride = s.pendStride := rfl
@[simp] theorem slotWrite_pendDraw (n : Nat) (x : Mat) (s : State) : (slotWrite n x s).pendDraw = s.pendDraw := rfl
@[simp] theorem slotWrite_turns (n : Nat) (x : Mat) (s : State) : (slotWrite n x s).turns = s.turns := rfl
@[simp] theorem slotWrite_reads (n : Nat) (x : Mat) (s : State) : (slotWrite n x s).reads = s.reads := rfl

/-! ### bmpWrite -/

@[simp] theorem bmpWrite_params (a : Nat) (v : Byte) (s : State) : (bmpWrite a v s).params = s.params := rfl
@[simp] theorem bmpWrite_slots (a : Nat) (v : Byte) (s : State) : (bmpWrite a v s).slots = s.slots := rfl
@[simp] theorem bmpWrite_bmp (a : Nat) (v : Byte) (s : State) : (bmpWrite a v s).bmp = Memory.store a v s.bmp := rfl
@[simp] theorem bmpWrite_bmpDraw (a : Nat) (v : Byte) (s : State) : (bmpWrite a v s).bmpDraw = s.bmpDraw := rfl
@[simp] theorem bmpWrite_ctrl (a : Nat) (v : Byte) (s : State) : (bmpWrite a v s).ctrl = s.ctrl := rfl
@[simp] theorem bmpWrite_status (a : Nat) (v : Byte) (s : State) : (bmpWrite a v s).status = s.status := rfl
@[simp] theorem bmpWrite_cmd (a : Nat) (v : Byte) (s : State) : (bmpWrite a v s).cmd = s.cmd := rfl
@[simp] theorem bmpWrite_slotSel (a : Nat) (v : Byte) (s : State) : (bmpWrite a v s).slotSel = s.slotSel := rfl
@[simp] theorem bmpWrite_cellAddr (a : Nat) (v : Byte) (s : State) : (bmpWrite a v s).cellAddr = s.cellAddr := rfl
@[simp] theorem bmpWrite_bmpLen (a : Nat) (v : Byte) (s : State) : (bmpWrite a v s).bmpLen = s.bmpLen := rfl
@[simp] theorem bmpWrite_bmpAddr (a : Nat) (v : Byte) (s : State) : (bmpWrite a v s).bmpAddr = s.bmpAddr := rfl
@[simp] theorem bmpWrite_pendWord (a : Nat) (v : Byte) (s : State) : (bmpWrite a v s).pendWord = s.pendWord := rfl
@[simp] theorem bmpWrite_pendStride (a : Nat) (v : Byte) (s : State) : (bmpWrite a v s).pendStride = s.pendStride := rfl
@[simp] theorem bmpWrite_pendDraw (a : Nat) (v : Byte) (s : State) : (bmpWrite a v s).pendDraw = s.pendDraw := rfl
@[simp] theorem bmpWrite_turns (a : Nat) (v : Byte) (s : State) : (bmpWrite a v s).turns = s.turns := rfl
@[simp] theorem bmpWrite_reads (a : Nat) (v : Byte) (s : State) : (bmpWrite a v s).reads = s.reads := rfl

/-! ### raise -/

@[simp] theorem raise_params (e : CmdError) (s : State) : (raise e s).params = s.params := rfl
@[simp] theorem raise_slots (e : CmdError) (s : State) : (raise e s).slots = s.slots := rfl
@[simp] theorem raise_bmp (e : CmdError) (s : State) : (raise e s).bmp = s.bmp := rfl
@[simp] theorem raise_bmpDraw (e : CmdError) (s : State) : (raise e s).bmpDraw = s.bmpDraw := rfl
@[simp] theorem raise_ctrl (e : CmdError) (s : State) : (raise e s).ctrl = s.ctrl := rfl
@[simp] theorem raise_status (e : CmdError) (s : State) : (raise e s).status = statusErr e s.status := rfl
@[simp] theorem raise_cmd (e : CmdError) (s : State) : (raise e s).cmd = s.cmd := rfl
@[simp] theorem raise_slotSel (e : CmdError) (s : State) : (raise e s).slotSel = s.slotSel := rfl
@[simp] theorem raise_cellAddr (e : CmdError) (s : State) : (raise e s).cellAddr = s.cellAddr := rfl
@[simp] theorem raise_bmpLen (e : CmdError) (s : State) : (raise e s).bmpLen = s.bmpLen := rfl
@[simp] theorem raise_bmpAddr (e : CmdError) (s : State) : (raise e s).bmpAddr = s.bmpAddr := rfl
@[simp] theorem raise_pendWord (e : CmdError) (s : State) : (raise e s).pendWord = s.pendWord := rfl
@[simp] theorem raise_pendStride (e : CmdError) (s : State) : (raise e s).pendStride = s.pendStride := rfl
@[simp] theorem raise_pendDraw (e : CmdError) (s : State) : (raise e s).pendDraw = s.pendDraw := rfl
@[simp] theorem raise_turns (e : CmdError) (s : State) : (raise e s).turns = s.turns := rfl
@[simp] theorem raise_reads (e : CmdError) (s : State) : (raise e s).reads = s.reads := rfl

/-! ### refuse -/

@[simp] theorem refuse_params (e : HostError) (s : State) : (refuse e s).params = s.params := rfl
@[simp] theorem refuse_slots (e : HostError) (s : State) : (refuse e s).slots = s.slots := rfl
@[simp] theorem refuse_bmp (e : HostError) (s : State) : (refuse e s).bmp = s.bmp := rfl
@[simp] theorem refuse_bmpDraw (e : HostError) (s : State) : (refuse e s).bmpDraw = s.bmpDraw := rfl
@[simp] theorem refuse_ctrl (e : HostError) (s : State) : (refuse e s).ctrl = s.ctrl := rfl
@[simp] theorem refuse_status (e : HostError) (s : State) : (refuse e s).status = statusRefused e s.status := rfl
@[simp] theorem refuse_cmd (e : HostError) (s : State) : (refuse e s).cmd = s.cmd := rfl
@[simp] theorem refuse_slotSel (e : HostError) (s : State) : (refuse e s).slotSel = s.slotSel := rfl
@[simp] theorem refuse_cellAddr (e : HostError) (s : State) : (refuse e s).cellAddr = s.cellAddr := rfl
@[simp] theorem refuse_bmpLen (e : HostError) (s : State) : (refuse e s).bmpLen = s.bmpLen := rfl
@[simp] theorem refuse_bmpAddr (e : HostError) (s : State) : (refuse e s).bmpAddr = s.bmpAddr := rfl
@[simp] theorem refuse_pendWord (e : HostError) (s : State) : (refuse e s).pendWord = s.pendWord := rfl
@[simp] theorem refuse_pendStride (e : HostError) (s : State) : (refuse e s).pendStride = s.pendStride := rfl
@[simp] theorem refuse_pendDraw (e : HostError) (s : State) : (refuse e s).pendDraw = s.pendDraw := rfl
@[simp] theorem refuse_turns (e : HostError) (s : State) : (refuse e s).turns = s.turns := rfl
@[simp] theorem refuse_reads (e : HostError) (s : State) : (refuse e s).reads = s.reads := rfl

/-! ### returnToHost -/

@[simp] theorem returnToHost_params (v : Word) (s : State) : (returnToHost v s).params = s.params := rfl
@[simp] theorem returnToHost_slots (v : Word) (s : State) : (returnToHost v s).slots = s.slots := rfl
@[simp] theorem returnToHost_bmp (v : Word) (s : State) : (returnToHost v s).bmp = s.bmp := rfl
@[simp] theorem returnToHost_bmpDraw (v : Word) (s : State) : (returnToHost v s).bmpDraw = s.bmpDraw := rfl
@[simp] theorem returnToHost_ctrl (v : Word) (s : State) : (returnToHost v s).ctrl = s.ctrl := rfl
@[simp] theorem returnToHost_status (v : Word) (s : State) : (returnToHost v s).status = s.status := rfl
@[simp] theorem returnToHost_cmd (v : Word) (s : State) : (returnToHost v s).cmd = s.cmd := rfl
@[simp] theorem returnToHost_slotSel (v : Word) (s : State) : (returnToHost v s).slotSel = s.slotSel := rfl
@[simp] theorem returnToHost_cellAddr (v : Word) (s : State) : (returnToHost v s).cellAddr = s.cellAddr := rfl
@[simp] theorem returnToHost_bmpLen (v : Word) (s : State) : (returnToHost v s).bmpLen = s.bmpLen := rfl
@[simp] theorem returnToHost_bmpAddr (v : Word) (s : State) : (returnToHost v s).bmpAddr = s.bmpAddr := rfl
@[simp] theorem returnToHost_pendWord (v : Word) (s : State) : (returnToHost v s).pendWord = s.pendWord := rfl
@[simp] theorem returnToHost_pendStride (v : Word) (s : State) : (returnToHost v s).pendStride = s.pendStride := rfl
@[simp] theorem returnToHost_pendDraw (v : Word) (s : State) : (returnToHost v s).pendDraw = s.pendDraw := rfl
@[simp] theorem returnToHost_turns (v : Word) (s : State) : (returnToHost v s).turns = s.turns := rfl
@[simp] theorem returnToHost_reads (v : Word) (s : State) : (returnToHost v s).reads = v :: s.reads := rfl

/-! ### acceptCommand -/

@[simp] theorem acceptCommand_params (v : Word) (s : State) : (acceptCommand v s).params = s.params := rfl
@[simp] theorem acceptCommand_slots (v : Word) (s : State) : (acceptCommand v s).slots = s.slots := rfl
@[simp] theorem acceptCommand_bmp (v : Word) (s : State) : (acceptCommand v s).bmp = s.bmp := rfl
@[simp] theorem acceptCommand_bmpDraw (v : Word) (s : State) : (acceptCommand v s).bmpDraw = s.bmpDraw := rfl
@[simp] theorem acceptCommand_ctrl (v : Word) (s : State) : (acceptCommand v s).ctrl = s.ctrl := rfl
@[simp] theorem acceptCommand_status (v : Word) (s : State) : (acceptCommand v s).status = statusAccepted s.status := rfl
@[simp] theorem acceptCommand_cmd (v : Word) (s : State) : (acceptCommand v s).cmd = v := rfl
@[simp] theorem acceptCommand_slotSel (v : Word) (s : State) : (acceptCommand v s).slotSel = s.slotSel := rfl
@[simp] theorem acceptCommand_cellAddr (v : Word) (s : State) : (acceptCommand v s).cellAddr = s.cellAddr := rfl
@[simp] theorem acceptCommand_bmpLen (v : Word) (s : State) : (acceptCommand v s).bmpLen = s.bmpLen := rfl
@[simp] theorem acceptCommand_bmpAddr (v : Word) (s : State) : (acceptCommand v s).bmpAddr = s.bmpAddr := rfl
@[simp] theorem acceptCommand_pendWord (v : Word) (s : State) : (acceptCommand v s).pendWord = v := rfl
@[simp] theorem acceptCommand_pendStride (v : Word) (s : State) : (acceptCommand v s).pendStride = s.ctrl.bmpStride := rfl
@[simp] theorem acceptCommand_pendDraw (v : Word) (s : State) : (acceptCommand v s).pendDraw = s.pendDraw := rfl
@[simp] theorem acceptCommand_turns (v : Word) (s : State) : (acceptCommand v s).turns = s.turns := rfl
@[simp] theorem acceptCommand_reads (v : Word) (s : State) : (acceptCommand v s).reads = s.reads := rfl

/-! ### writeStatus -/

@[simp] theorem writeStatus_params (v : Word) (s : State) : (writeStatus v s).params = s.params := rfl
@[simp] theorem writeStatus_slots (v : Word) (s : State) : (writeStatus v s).slots = s.slots := rfl
@[simp] theorem writeStatus_bmp (v : Word) (s : State) : (writeStatus v s).bmp = s.bmp := rfl
@[simp] theorem writeStatus_bmpDraw (v : Word) (s : State) : (writeStatus v s).bmpDraw = s.bmpDraw := rfl
@[simp] theorem writeStatus_ctrl (v : Word) (s : State) : (writeStatus v s).ctrl = s.ctrl := rfl
@[simp] theorem writeStatus_status (v : Word) (s : State) : (writeStatus v s).status = statusW1C v s.status := rfl
@[simp] theorem writeStatus_cmd (v : Word) (s : State) : (writeStatus v s).cmd = s.cmd := rfl
@[simp] theorem writeStatus_slotSel (v : Word) (s : State) : (writeStatus v s).slotSel = s.slotSel := rfl
@[simp] theorem writeStatus_cellAddr (v : Word) (s : State) : (writeStatus v s).cellAddr = s.cellAddr := rfl
@[simp] theorem writeStatus_bmpLen (v : Word) (s : State) : (writeStatus v s).bmpLen = s.bmpLen := rfl
@[simp] theorem writeStatus_bmpAddr (v : Word) (s : State) : (writeStatus v s).bmpAddr = s.bmpAddr := rfl
@[simp] theorem writeStatus_pendWord (v : Word) (s : State) : (writeStatus v s).pendWord = s.pendWord := rfl
@[simp] theorem writeStatus_pendStride (v : Word) (s : State) : (writeStatus v s).pendStride = s.pendStride := rfl
@[simp] theorem writeStatus_pendDraw (v : Word) (s : State) : (writeStatus v s).pendDraw = s.pendDraw := rfl
@[simp] theorem writeStatus_turns (v : Word) (s : State) : (writeStatus v s).turns = s.turns := rfl
@[simp] theorem writeStatus_reads (v : Word) (s : State) : (writeStatus v s).reads = s.reads := rfl

/-! ### bringCommand -/

@[simp] theorem bringCommand_params (v : Word) (s : State) : (bringCommand v s).params = s.params := rfl
@[simp] theorem bringCommand_slots (v : Word) (s : State) : (bringCommand v s).slots = s.slots := rfl
@[simp] theorem bringCommand_bmp (v : Word) (s : State) : (bringCommand v s).bmp = s.bmp := rfl
@[simp] theorem bringCommand_bmpDraw (v : Word) (s : State) : (bringCommand v s).bmpDraw = s.bmpDraw := rfl
@[simp] theorem bringCommand_ctrl (v : Word) (s : State) : (bringCommand v s).ctrl = s.ctrl := rfl
@[simp] theorem bringCommand_status (v : Word) (s : State) : (bringCommand v s).status = statusAccepted s.status := rfl
@[simp] theorem bringCommand_cmd (v : Word) (s : State) : (bringCommand v s).cmd = v := rfl
@[simp] theorem bringCommand_slotSel (v : Word) (s : State) : (bringCommand v s).slotSel = s.slotSel := rfl
@[simp] theorem bringCommand_cellAddr (v : Word) (s : State) : (bringCommand v s).cellAddr = s.cellAddr := rfl
@[simp] theorem bringCommand_bmpLen (v : Word) (s : State) : (bringCommand v s).bmpLen = s.bmpLen := rfl
@[simp] theorem bringCommand_bmpAddr (v : Word) (s : State) : (bringCommand v s).bmpAddr = s.bmpAddr := rfl
@[simp] theorem bringCommand_pendWord (v : Word) (s : State) : (bringCommand v s).pendWord = v := rfl
@[simp] theorem bringCommand_pendStride (v : Word) (s : State) : (bringCommand v s).pendStride = s.ctrl.bmpStride := rfl
@[simp] theorem bringCommand_pendDraw (v : Word) (s : State) : (bringCommand v s).pendDraw = s.pendDraw := rfl
@[simp] theorem bringCommand_turns (v : Word) (s : State) : (bringCommand v s).turns = .engine :: s.turns := rfl
@[simp] theorem bringCommand_reads (v : Word) (s : State) : (bringCommand v s).reads = s.reads := rfl

/-! ### softReset -/

@[simp] theorem softReset_params (s : State) : (softReset s).params = s.params := rfl
@[simp] theorem softReset_slots (s : State) : (softReset s).slots = List.replicate s.params.numSlots Mat.empty := rfl
@[simp] theorem softReset_bmp (s : State) : (softReset s).bmp = s.bmp := rfl
@[simp] theorem softReset_bmpDraw (s : State) : (softReset s).bmpDraw = s.bmpDraw := rfl
@[simp] theorem softReset_ctrl (s : State) : (softReset s).ctrl = Ctrl.reset := rfl
@[simp] theorem softReset_status (s : State) : (softReset s).status = Status.reset := rfl
@[simp] theorem softReset_cmd (s : State) : (softReset s).cmd = 0 := rfl
@[simp] theorem softReset_slotSel (s : State) : (softReset s).slotSel = 0 := rfl
@[simp] theorem softReset_cellAddr (s : State) : (softReset s).cellAddr = 0 := rfl
@[simp] theorem softReset_bmpLen (s : State) : (softReset s).bmpLen = 0 := rfl
@[simp] theorem softReset_bmpAddr (s : State) : (softReset s).bmpAddr = 0 := rfl
@[simp] theorem softReset_pendWord (s : State) : (softReset s).pendWord = Config.pendWordAfterReset s.pendDraw := rfl
@[simp] theorem softReset_pendStride (s : State) : (softReset s).pendStride = Config.pendStrideAfterReset s.pendDraw := rfl
@[simp] theorem softReset_pendDraw (s : State) : (softReset s).pendDraw = s.pendDraw + 1 := rfl
@[simp] theorem softReset_turns (s : State) : (softReset s).turns = s.turns := rfl
@[simp] theorem softReset_reads (s : State) : (softReset s).reads = s.reads := rfl

/-! ### hardReset -/

@[simp] theorem hardReset_params (s : State) : (hardReset s).params = s.params := rfl
@[simp] theorem hardReset_slots (s : State) : (hardReset s).slots = List.replicate s.params.numSlots Mat.empty := rfl
@[simp] theorem hardReset_bmp (s : State) : (hardReset s).bmp = [] := rfl
@[simp] theorem hardReset_bmpDraw (s : State) : (hardReset s).bmpDraw = s.bmpDraw + 1 := rfl
@[simp] theorem hardReset_ctrl (s : State) : (hardReset s).ctrl = Ctrl.reset := rfl
@[simp] theorem hardReset_status (s : State) : (hardReset s).status = Status.reset := rfl
@[simp] theorem hardReset_cmd (s : State) : (hardReset s).cmd = 0 := rfl
@[simp] theorem hardReset_slotSel (s : State) : (hardReset s).slotSel = 0 := rfl
@[simp] theorem hardReset_cellAddr (s : State) : (hardReset s).cellAddr = 0 := rfl
@[simp] theorem hardReset_bmpLen (s : State) : (hardReset s).bmpLen = 0 := rfl
@[simp] theorem hardReset_bmpAddr (s : State) : (hardReset s).bmpAddr = 0 := rfl
@[simp] theorem hardReset_pendWord (s : State) : (hardReset s).pendWord = Config.pendWordAfterReset s.pendDraw := rfl
@[simp] theorem hardReset_pendStride (s : State) : (hardReset s).pendStride = Config.pendStrideAfterReset s.pendDraw := rfl
@[simp] theorem hardReset_pendDraw (s : State) : (hardReset s).pendDraw = s.pendDraw + 1 := rfl
@[simp] theorem hardReset_turns (s : State) : (hardReset s).turns = s.turns := rfl
@[simp] theorem hardReset_reads (s : State) : (hardReset s).reads = s.reads := rfl

/-! ### complete -/

@[simp] theorem complete_params (r : CmdResult) (s : State) : (complete r s).params = s.params := by cases r <;> rfl
@[simp] theorem complete_bmp (r : CmdResult) (s : State) : (complete r s).bmp = s.bmp := by cases r <;> rfl
@[simp] theorem complete_bmpDraw (r : CmdResult) (s : State) : (complete r s).bmpDraw = s.bmpDraw := by cases r <;> rfl
@[simp] theorem complete_ctrl (r : CmdResult) (s : State) : (complete r s).ctrl = s.ctrl := by cases r <;> rfl
@[simp] theorem complete_cmd (r : CmdResult) (s : State) : (complete r s).cmd = s.cmd := by cases r <;> rfl
@[simp] theorem complete_slotSel (r : CmdResult) (s : State) : (complete r s).slotSel = s.slotSel := by cases r <;> rfl
@[simp] theorem complete_cellAddr (r : CmdResult) (s : State) : (complete r s).cellAddr = s.cellAddr := by cases r <;> rfl
@[simp] theorem complete_bmpLen (r : CmdResult) (s : State) : (complete r s).bmpLen = s.bmpLen := by cases r <;> rfl
@[simp] theorem complete_bmpAddr (r : CmdResult) (s : State) : (complete r s).bmpAddr = s.bmpAddr := by cases r <;> rfl
@[simp] theorem complete_pendWord (r : CmdResult) (s : State) : (complete r s).pendWord = s.pendWord := by cases r <;> rfl
@[simp] theorem complete_pendStride (r : CmdResult) (s : State) : (complete r s).pendStride = s.pendStride := by cases r <;> rfl
@[simp] theorem complete_pendDraw (r : CmdResult) (s : State) : (complete r s).pendDraw = s.pendDraw := by cases r <;> rfl
@[simp] theorem complete_turns (r : CmdResult) (s : State) : (complete r s).turns = s.turns := by cases r <;> rfl
@[simp] theorem complete_reads (r : CmdResult) (s : State) : (complete r s).reads = s.reads := by cases r <;> rfl

/-! ### refuseAccess -/

@[simp] theorem refuseAccess_params (a : Access) (e : HostError) (s : State) :
    (refuseAccess a e s).params = s.params := by
  unfold refuseAccess
  split <;> rfl
@[simp] theorem refuseAccess_slots (a : Access) (e : HostError) (s : State) :
    (refuseAccess a e s).slots = s.slots := by
  unfold refuseAccess
  split <;> rfl
@[simp] theorem refuseAccess_bmp (a : Access) (e : HostError) (s : State) :
    (refuseAccess a e s).bmp = s.bmp := by
  unfold refuseAccess
  split <;> rfl
@[simp] theorem refuseAccess_bmpDraw (a : Access) (e : HostError) (s : State) :
    (refuseAccess a e s).bmpDraw = s.bmpDraw := by
  unfold refuseAccess
  split <;> rfl
@[simp] theorem refuseAccess_ctrl (a : Access) (e : HostError) (s : State) :
    (refuseAccess a e s).ctrl = s.ctrl := by
  unfold refuseAccess
  split <;> rfl
@[simp] theorem refuseAccess_status (a : Access) (e : HostError) (s : State) :
    (refuseAccess a e s).status = statusRefused e s.status := by
  unfold refuseAccess
  split <;> rfl
@[simp] theorem refuseAccess_cmd (a : Access) (e : HostError) (s : State) :
    (refuseAccess a e s).cmd = s.cmd := by
  unfold refuseAccess
  split <;> rfl
@[simp] theorem refuseAccess_slotSel (a : Access) (e : HostError) (s : State) :
    (refuseAccess a e s).slotSel = s.slotSel := by
  unfold refuseAccess
  split <;> rfl
@[simp] theorem refuseAccess_cellAddr (a : Access) (e : HostError) (s : State) :
    (refuseAccess a e s).cellAddr = s.cellAddr := by
  unfold refuseAccess
  split <;> rfl
@[simp] theorem refuseAccess_bmpLen (a : Access) (e : HostError) (s : State) :
    (refuseAccess a e s).bmpLen = s.bmpLen := by
  unfold refuseAccess
  split <;> rfl
@[simp] theorem refuseAccess_bmpAddr (a : Access) (e : HostError) (s : State) :
    (refuseAccess a e s).bmpAddr = s.bmpAddr := by
  unfold refuseAccess
  split <;> rfl
@[simp] theorem refuseAccess_pendWord (a : Access) (e : HostError) (s : State) :
    (refuseAccess a e s).pendWord = s.pendWord := by
  unfold refuseAccess
  split <;> rfl
@[simp] theorem refuseAccess_pendStride (a : Access) (e : HostError) (s : State) :
    (refuseAccess a e s).pendStride = s.pendStride := by
  unfold refuseAccess
  split <;> rfl
@[simp] theorem refuseAccess_pendDraw (a : Access) (e : HostError) (s : State) :
    (refuseAccess a e s).pendDraw = s.pendDraw := by
  unfold refuseAccess
  split <;> rfl
@[simp] theorem refuseAccess_turns (a : Access) (e : HostError) (s : State) :
    (refuseAccess a e s).turns = s.turns := by
  unfold refuseAccess
  split <;> rfl

/-! ### STATUS updates -/

@[simp] theorem statusAccepted_busy (st : Status) : (statusAccepted st).busy = true := rfl
@[simp] theorem statusAccepted_done (st : Status) : (statusAccepted st).done = false := rfl
@[simp] theorem statusAccepted_err (st : Status) : (statusAccepted st).err = false := rfl
@[simp] theorem statusAccepted_hostErr (st : Status) : (statusAccepted st).hostErr = st.hostErr := rfl
@[simp] theorem statusAccepted_errCode (st : Status) : (statusAccepted st).errCode = 0 := rfl
@[simp] theorem statusAccepted_hostErrCode (st : Status) : (statusAccepted st).hostErrCode = st.hostErrCode := rfl
@[simp] theorem statusDone_busy (st : Status) : (statusDone st).busy = false := rfl
@[simp] theorem statusDone_done (st : Status) : (statusDone st).done = true := rfl
@[simp] theorem statusDone_err (st : Status) : (statusDone st).err = st.err := rfl
@[simp] theorem statusDone_hostErr (st : Status) : (statusDone st).hostErr = st.hostErr := rfl
@[simp] theorem statusDone_errCode (st : Status) : (statusDone st).errCode = st.errCode := rfl
@[simp] theorem statusDone_hostErrCode (st : Status) : (statusDone st).hostErrCode = st.hostErrCode := rfl
@[simp] theorem statusErr_busy (e : CmdError) (st : Status) : (statusErr e st).busy = false := rfl
@[simp] theorem statusErr_done (e : CmdError) (st : Status) : (statusErr e st).done = st.done := rfl
@[simp] theorem statusErr_err (e : CmdError) (st : Status) : (statusErr e st).err = true := rfl
@[simp] theorem statusErr_hostErr (e : CmdError) (st : Status) : (statusErr e st).hostErr = st.hostErr := rfl
@[simp] theorem statusErr_errCode (e : CmdError) (st : Status) : (statusErr e st).errCode = cmdErrorCode e := rfl
@[simp] theorem statusErr_hostErrCode (e : CmdError) (st : Status) : (statusErr e st).hostErrCode = st.hostErrCode := rfl
@[simp] theorem statusRefused_busy (e : HostError) (st : Status) : (statusRefused e st).busy = st.busy := rfl
@[simp] theorem statusRefused_done (e : HostError) (st : Status) : (statusRefused e st).done = st.done := rfl
@[simp] theorem statusRefused_err (e : HostError) (st : Status) : (statusRefused e st).err = st.err := rfl
@[simp] theorem statusRefused_hostErr (e : HostError) (st : Status) : (statusRefused e st).hostErr = true := rfl
@[simp] theorem statusRefused_errCode (e : HostError) (st : Status) : (statusRefused e st).errCode = st.errCode := rfl
@[simp] theorem statusRefused_hostErrCode (e : HostError) (st : Status) : (statusRefused e st).hostErrCode = hostErrorCode e := rfl
@[simp] theorem statusW1C_busy (v : Word) (st : Status) : (statusW1C v st).busy = st.busy := rfl
@[simp] theorem statusW1C_done (v : Word) (st : Status) : (statusW1C v st).done = (st.done && !v.getLsbD 1) := rfl
@[simp] theorem statusW1C_err (v : Word) (st : Status) : (statusW1C v st).err = (st.err && !v.getLsbD 2) := rfl
@[simp] theorem statusW1C_hostErr (v : Word) (st : Status) : (statusW1C v st).hostErr = (st.hostErr && !v.getLsbD 3) := rfl
@[simp] theorem statusW1C_errCode (v : Word) (st : Status) : (statusW1C v st).errCode = if v.getLsbD 2 then 0 else st.errCode := rfl
@[simp] theorem statusW1C_hostErrCode (v : Word) (st : Status) : (statusW1C v st).hostErrCode = if v.getLsbD 3 then 0 else st.hostErrCode := rfl

/-- What a list of slots holds after a write: the new value in the slot written, if there is such a slot. -/
theorem slotRead_slotWrite (n m : Nat) (x : Mat) (s : State) :
    slotRead (slotWrite n x s) m = if n = m ∧ n < s.slots.length then x else slotRead s m := by
  simp only [slotRead, slotWrite, List.getD_eq_getElem?_getD, List.getElem?_set]
  by_cases h : n = m
  · subst h
    by_cases h2 : n < s.slots.length
    · simp [h2]
    · simp [h2]
  · simp [h]

@[simp] theorem slotRead_slotWrite_self {n : Nat} {x : Mat} {s : State} (h : n < s.slots.length) :
    slotRead (slotWrite n x s) n = x := by
  simp [slotRead_slotWrite, h]

theorem slotRead_slotWrite_ne {n m : Nat} (h : n ≠ m) (x : Mat) (s : State) :
    slotRead (slotWrite n x s) m = slotRead s m := by
  simp [slotRead_slotWrite, h]

/-- What a slot number reads depends on the slot file alone. -/
theorem slotRead_congr {s t : State} (h : t.slots = s.slots) (n : Nat) : slotRead t n = slotRead s n := by
  simp only [slotRead, h]

end Sys2Proof.Machine
end

