-- ==== Sys2Proof/Laws/Ops.lean ====
section
/-! SUPPORT. For each shared operation, once, everything it can do: completion, the dispatch checks, one Host access, one
turn. Later proofs cite these and do not unfold the operations. -/

namespace Sys2Proof.Machine

/-! ### Completion (R76) -/

theorem complete_okSlot (d : BitVec 4) (x : Mat) (s : State) : complete (.okSlot d x) s = okState d x s := rfl
theorem complete_okNone (s : State) : complete .okNone s = doneState s := rfl
theorem complete_err (e : CmdError) (s : State) : complete (.err e) s = errState (cmdErrorCode e) s := rfl

/-- Every command error has a code from 1 to 0x0A (R109). -/
theorem cmdErrorCode_range (e : CmdError) : 1 ≤ (cmdErrorCode e).toNat ∧ (cmdErrorCode e).toNat ≤ 0x0A := by
  cases e <;> decide

/-- Every host error has a code from 1 to 4 (R44). -/
theorem hostErrorCode_range (e : HostError) : 1 ≤ (hostErrorCode e).toNat ∧ (hostErrorCode e).toNat ≤ 4 := by
  cases e <;> decide

/-! ### The dispatch checks (R80, R81) -/

theorem slotFieldBad_iff (s : State) (fields : List (BitVec 4)) :
    slotFieldBad s fields = true ↔ ∃ f ∈ fields, s.params.numSlots ≤ f.toNat := by
  simp [slotFieldBad]

/-- With every slot field below NUM_SLOTS the family rule decides. -/
theorem withSlots_ok {s : State} {fields : List (BitVec 4)} (h : ∀ f ∈ fields, f.toNat < s.params.numSlots)
    (r : CmdResult) : withSlots s fields r = r := by
  have : ¬slotFieldBad s fields = true := by
    rw [slotFieldBad_iff]
    rintro ⟨f, hf, hle⟩
    exact absurd (h f hf) (Nat.not_lt.mpr hle)
  simp [withSlots, this]

/-- With a slot field at or above NUM_SLOTS the command ends with BAD_SLOT. -/
theorem withSlots_bad {s : State} {fields : List (BitVec 4)} (h : ∃ f ∈ fields, s.params.numSlots ≤ f.toNat)
    (r : CmdResult) : withSlots s fields r = .err .badSlot := by
  simp [withSlots, (slotFieldBad_iff s fields).mpr h]

theorem withSlots_cases (s : State) (fields : List (BitVec 4)) (r : CmdResult) :
    withSlots s fields r = r ∨ withSlots s fields r = .err .badSlot := by
  unfold withSlots
  split
  · exact .inr rfl
  · exact .inl rfl

theorem runCommand_eq (fields : List (BitVec 4)) (r : CmdResult) (s : State) :
    runCommand fields r s = .next (complete (withSlots s fields r) s) := rfl

/-! ### One Host access (R42 to R45) -/

theorem refuseAccess_eq (a : Access) (e : HostError) (s : State) :
    refuseAccess a e s = refusedState a.kind (hostErrorCode e) s := by
  unfold refuseAccess
  cases h : a.kind <;> rfl

/-- Everything one Host access can do: it is refused, or it reads a register, or it writes one. -/
theorem hostAccess_cases (a : Access) (s : State) :
    (∃ e, hostAccess a s = refuseAccess a e s) ∨
    (∃ r v, a.kind = .read ∧ accessTarget a s = .ok r ∧ readReg r s = .ok v ∧ hostAccess a s = returnToHost v s) ∨
    (∃ r t, a.kind = .write ∧ accessTarget a s = .ok r ∧ writeReg r a.v s = .ok t ∧ hostAccess a s = t) := by
  unfold hostAccess
  cases ht : accessTarget a s with
  | error e => exact .inl ⟨e, rfl⟩
  | ok r =>
    cases hk : a.kind with
    | read =>
      cases hr : readReg r s with
      | error e => exact .inl ⟨e, by simp [hr]⟩
      | ok v => exact .inr (.inl ⟨r, v, rfl, rfl, hr, by simp [hr]⟩)
    | write =>
      cases hw : writeReg r a.v s with
      | error e => exact .inl ⟨e, by simp [hw]⟩
      | ok t => exact .inr (.inr ⟨r, t, rfl, rfl, hw, by simp [hw]⟩)

/-- An access that reaches a register has passed the checks 1 to 4 of R45. -/
theorem accessTarget_ok {a : Access} {s : State} {r : Reg} (h : accessTarget a s = .ok r) :
    a.size = 4 ∧ a.off.toNat % 4 = 0 ∧ regAt a.off = some r ∧ (a.kind = .write → readOnly r = false) ∧
      (s.status.busy = true → guarded a.kind r = false) := by
  unfold accessTarget at h
  split at h
  · simp at h
  · rename_i h1
    split at h
    · simp at h
    · rename_i r' h2
      split at h
      · simp at h
      · rename_i h3
        split at h
        · simp at h
        · rename_i h4
          obtain rfl : r' = r := by simpa using h
          refine ⟨by tauto, by tauto, h2, fun hk => ?_, fun hb => ?_⟩
          · simpa [hk] using h3
          · simpa [hb] using h4

/-! ### One turn (R59, R75) -/

theorem engineTurn_idle {s : State} (h : s.status.busy = false) : engineTurn s = .next s := by
  simp [engineTurn, h]

theorem engineTurn_busy {s : State} (h : s.status.busy = true) : engineTurn s = runPending s := by
  simp [engineTurn, h]

theorem runPending_command {s : State} {i : Instr} (h : decode s.pendWord = .command i) : runPending s = exec i s := by
  simp [runPending, h]

theorem runPending_illegal {s : State} {why : IllegalWord} (h : decode s.pendWord = .illegal why) :
    runPending s = .next (errState 0x01 s) := by
  simp only [runPending, h]
  rfl

theorem step_nil {s : State} (h : s.turns = []) : step s = engineTurn s := by
  simp [step, nextTurn, h]

theorem step_cons {s : State} {t : Turn} {rest : List Turn} (h : s.turns = t :: rest) :
    step s = takeTurn t { s with turns := rest } := by
  simp [step, nextTurn, h]

/-! ### Runs -/

/-- One step of a run that answers a next state, for any machine behind the host's interface. -/
theorem coreRun_of_next (M : Host.Core) {s t : M.State} (h : M.step s = .next t) (k : Nat) :
    M.run (k + 1) s = M.run k t := by
  rw [Host.Core.run.eq_2, h]

/-- One step of a run of this machine that answers a next state. -/
theorem run_of_next {s t : State} (h : step s = .next t) (k : Nat) :
    Host.Core.run Sys2Proof.core (k + 1) s = Host.Core.run Sys2Proof.core k t :=
  coreRun_of_next Sys2Proof.core h k

end Sys2Proof.Machine
end

