-- ==== Sys2Proof/Laws/HostAccess.lean ====
section
/-! SUPPORT. The 32-bit accesses at a register's own offset: what one read and one write of each register comes to. Which
accesses at an address reach the block, and as which access. -/

namespace Sys2Proof.Machine

theorem regAt_regOffset (r : Reg) : regAt (regOffset r) = some r := by
  cases r <;> rfl

theorem regOffset_aligned (r : Reg) : (regOffset r).toNat % 4 = 0 := by
  cases r <;> rfl

/-- A register is found only at its own offset (R19). -/
theorem regAt_some {off : BitVec 6} {r : Reg} (h : regAt off = some r) : off = regOffset r := by
  have ho : off = BitVec.ofNat 6 off.toNat := by simp
  unfold regAt at h
  split at h <;> first | (cases h; rename_i hn; rw [hn] at ho; exact ho) | (simp at h)

/-- A read at a register's offset (R45, R49). -/
theorem hostAccess_readAt (r : Reg) (s : State) :
    hostAccess (readAt (regOffset r)) s =
      if s.status.busy = true ∧ guarded .read r = true then refusedState .read 0x01 s
      else match readReg r s with
        | .ok v => readState v s
        | .error e => refusedState .read (hostErrorCode e) s := by
  have ht : accessTarget (readAt (regOffset r)) s =
      if s.status.busy = true ∧ guarded .read r = true then .error .busy else .ok r := by
    by_cases hg : s.status.busy = true ∧ guarded .read r = true <;>
      simp [accessTarget, readAt, regAt_regOffset, regOffset_aligned, hg]
  by_cases hg : s.status.busy = true ∧ guarded .read r = true
  · rw [if_pos hg] at ht ⊢
    simp only [hostAccess, ht]
    rfl
  · rw [if_neg hg] at ht ⊢
    simp only [hostAccess, ht]
    cases hr : readReg r s <;> simp [readAt] <;> rfl

/-- A write at a register's offset (R45, R48, R49). -/
theorem hostAccess_writeAt (r : Reg) (v : Word) (s : State) :
    hostAccess (writeAt (regOffset r) v) s =
      if readOnly r = true then refusedState .write 0x04 s
      else if s.status.busy = true ∧ guarded .write r = true then refusedState .write 0x01 s
      else match writeReg r v s with
        | .ok t => t
        | .error e => refusedState .write (hostErrorCode e) s := by
  have ht : accessTarget (writeAt (regOffset r) v) s =
      if readOnly r = true then .error .access
      else if s.status.busy = true ∧ guarded .write r = true then .error .busy else .ok r := by
    by_cases hro : readOnly r = true <;> by_cases hg : s.status.busy = true ∧ guarded .write r = true <;>
      simp [accessTarget, writeAt, regAt_regOffset, regOffset_aligned, hro, hg]
  by_cases hro : readOnly r = true
  · rw [if_pos hro] at ht ⊢
    simp only [hostAccess, ht]
    rfl
  · rw [if_neg hro] at ht ⊢
    by_cases hg : s.status.busy = true ∧ guarded .write r = true
    · rw [if_pos hg] at ht ⊢
      simp only [hostAccess, ht]
      rfl
    · rw [if_neg hg] at ht ⊢
      simp only [hostAccess, ht]
      cases hw : writeReg r v s <;> (simp [writeAt, hw]; try rfl)

/-! ### Accesses at an address (R41) -/

theorem routedToBlock_iff (base addr : Nat) : routedToBlock base addr = true ↔ base ≤ addr ∧ addr < base + 0x40 := by
  simp [routedToBlock]

/-- Everything an access at an address can do: it is an access of the block, or it leaves the block as it is. -/
theorem busAccess_cases (a : BusAccess) (s : State) :
    (s.params.base ≤ a.addr ∧ a.addr < s.params.base + 0x40 ∧ busAccess a s = hostAccess (blockAccess a) s) ∨
    (¬(s.params.base ≤ a.addr ∧ a.addr < s.params.base + 0x40) ∧ busAccess a s = s) := by
  by_cases h : routedToBlock s.params.base a.addr = true
  · obtain ⟨h1, h2⟩ := (routedToBlock_iff _ _).mp h
    exact .inl ⟨h1, h2, if_pos h⟩
  · exact .inr ⟨fun h' => h ((routedToBlock_iff _ _).mpr h'), if_neg h⟩

/-- With BASE a multiple of 0x40, the offset that the block decodes is the byte offset from BASE (R40, R41). -/
theorem offsetOfAddress_base {base : Nat} (h : base % 0x40 = 0) (off : BitVec 6) :
    offsetOfAddress (base + off.toNat) = off := by
  have := off.isLt
  refine BitVec.eq_of_toNat_eq ?_
  simp only [offsetOfAddress, BitVec.toNat_ofNat]
  omega

/-- The address of a register stands in the window (R72). -/
theorem routedToBlock_regAddress (base : Nat) (r : Reg) : routedToBlock base (regAddress base r) = true := by
  have := (regOffset r).isLt
  rw [routedToBlock_iff, regAddress]
  omega

/-- An access at a register's address is the access of the block at the register's offset (R72). -/
theorem busAccess_regAddress {s : State} (h : s.params.base % 0x40 = 0) (k : AccessKind) (r : Reg) (size : Nat) (v : Word) :
    busAccess { kind := k, addr := regAddress s.params.base r, size := size, v := v } s =
      hostAccess { kind := k, off := regOffset r, size := size, v := v } s := by
  rw [busAccess, if_pos (routedToBlock_regAddress _ r), blockAccess]
  simp only [regAddress, offsetOfAddress_base h]

end Sys2Proof.Machine
end

