-- ==== Sys2Proof/Laws/Mat.lean ====
section
/-! SUPPORT. The small lemmas of matrix values: what a built matrix holds, and what changing one cell changes. -/

namespace Sys2Proof.Machine

@[simp] theorem Mat.rows_ofFn (r c : Nat) (f : Nat → Nat → Int) : (Mat.ofFn r c f).rows = r := rfl
@[simp] theorem Mat.cols_ofFn (r c : Nat) (f : Nat → Nat → Int) : (Mat.ofFn r c f).cols = c := rfl
@[simp] theorem Mat.rows_empty : Mat.empty.rows = 0 := rfl
@[simp] theorem Mat.cols_empty : Mat.empty.cols = 0 := rfl
@[simp] theorem Mat.rows_zeros (r c : Nat) : (Mat.zeros r c).rows = r := rfl
@[simp] theorem Mat.cols_zeros (r c : Nat) : (Mat.zeros r c).cols = c := rfl
@[simp] theorem Mat.rows_set (m : Mat) (i j : Nat) (x : Int) : (m.set i j x).rows = m.rows := rfl
@[simp] theorem Mat.cols_set (m : Mat) (i j : Nat) (x : Int) : (m.set i j x).cols = m.cols := rfl

theorem Mat.shaped_empty : Mat.empty.Shaped := by decide

theorem Mat.shaped_ofFn (r c : Nat) (f : Nat → Nat → Int) : (Mat.ofFn r c f).Shaped := by
  simp [Mat.Shaped, Mat.ofFn]

theorem Mat.shaped_zeros (r c : Nat) : (Mat.zeros r c).Shaped :=
  Mat.shaped_ofFn r c _

/-- A built matrix holds its function's value at every index within its dimensions. -/
@[simp] theorem Mat.get_ofFn {r c : Nat} {f : Nat → Nat → Int} {i j : Nat} (hi : i < r) (hj : j < c) :
    (Mat.ofFn r c f).get i j = f i j := by
  simp [Mat.get, Mat.ofFn, hi, hj]

/-- The quantifier over the cells, as a statement about indices. -/
theorem Mat.all_iff (m : Mat) (p : Int → Bool) :
    m.all p = true ↔ ∀ i j, i < m.rows → j < m.cols → p (m.get i j) = true := by
  simp only [Mat.all, List.all_eq_true, List.mem_range]
  exact ⟨fun h i j hi hj => h i hi j hj, fun h i hi j hj => h i j hi hj⟩

/-- A failing check names a cell. -/
theorem Mat.all_eq_false_iff (m : Mat) (p : Int → Bool) :
    m.all p = false ↔ ∃ i j, i < m.rows ∧ j < m.cols ∧ p (m.get i j) = false := by
  rw [← Bool.not_eq_true, Mat.all_iff]
  push Not
  simp

theorem Mat.isEmpty_iff (m : Mat) : m.isEmpty = true ↔ m.rows = 0 ∨ m.cols = 0 := by
  simp [Mat.isEmpty]

theorem Mat.isEmpty_eq_false_iff (m : Mat) : m.isEmpty = false ↔ 0 < m.rows ∧ 0 < m.cols := by
  simp [Mat.isEmpty, Nat.pos_iff_ne_zero]

/-- Changing a cell keeps the shape. -/
theorem Mat.shaped_set {m : Mat} (h : m.Shaped) (i j : Nat) (x : Int) : (m.set i j x).Shaped := by
  obtain ⟨hr, hc⟩ := h
  refine ⟨by simpa [Mat.set] using hr, fun row hrow => ?_⟩
  rcases List.mem_or_eq_of_mem_set hrow with hmem | rfl
  · exact hc row hmem
  · by_cases hi : i < m.cells.length
    · simpa [hi] using hc _ (List.getElem_mem hi)
    · simp [Mat.set, List.set_eq_of_length_le (Nat.le_of_not_lt hi)] at hrow
      exact hc _ (by simpa [hi] using hrow)

/-- The cell that was changed reads as the new value. -/
theorem Mat.get_set_self {m : Mat} (h : m.Shaped) {i j : Nat} (hi : i < m.rows) (hj : j < m.cols) (x : Int) :
    (m.set i j x).get i j = x := by
  have hi' : i < m.cells.length := by rw [h.1]; exact hi
  have hj' : j < (m.cells[i]).length := by rw [h.2 _ (List.getElem_mem hi')]; exact hj
  simp [Mat.get, Mat.set, hi', hj']

/-- Every other cell reads as before. -/
theorem Mat.get_set_ne (m : Mat) {i j a b : Nat} (x : Int) (hne : ¬(a = i ∧ b = j)) :
    (m.set i j x).get a b = m.get a b := by
  by_cases ha : i = a
  · subst ha
    have hb : j ≠ b := fun h => hne ⟨rfl, h.symm⟩
    by_cases hi : i < m.cells.length
    · simp [Mat.get, Mat.set, hi, List.getElem?_set_ne hb]
    · simp [Mat.get, Mat.set, List.set_eq_of_length_le (Nat.le_of_not_lt hi)]
  · simp [Mat.get, Mat.set, List.getElem?_set_ne ha]

/-- Two well-shaped matrices of the same dimensions with the same cells are the same matrix (R9). -/
theorem Mat.ext_get {m n : Mat} (hm : m.Shaped) (hn : n.Shaped) (hr : m.rows = n.rows) (hc : m.cols = n.cols)
    (hg : ∀ i j, i < m.rows → j < m.cols → m.get i j = n.get i j) : m = n := by
  have hcells : m.cells = n.cells := by
    refine List.ext_getElem (by rw [hm.1, hn.1, hr]) fun i hi hi' => ?_
    have hlm := hm.2 _ (List.getElem_mem hi)
    have hln := hn.2 _ (List.getElem_mem hi')
    refine List.ext_getElem (by rw [hlm, hln, hc]) fun j hj hj' => ?_
    have := hg i j (by rw [← hm.1]; exact hi) (by rw [← hlm]; exact hj)
    simpa [Mat.get, hi, hi', hj, hj'] using this
  cases m
  cases n
  simp_all

end Sys2Proof.Machine
end

