-- ==== Sys2Proof/Laws/PerInstr.lean ====
section
/-! SUPPORT. One lemma for each command about its word: the reserved field Z is 0 and OPC is the command's operation code
(30_encoding.md R64, R66). -/

namespace Sys2Proof.Laws.EncodedFields

-- One theorem after another: in parallel their kernel evaluations wait for each other in many threads.
set_option Elab.async false

/-- The word of the command has Z = 0 and the command's operation code (R64, R66). -/
def Statement (i : Instr) : Prop :=
  zField (encode i) = 0 ∧ opcField (encode i) = opcode i

theorem nop : Statement .nop := by simp [Statement, encode]
theorem conv (d a b : BitVec 4) : Statement (.conv d a b) := by simp [Statement, encode]
theorem sum (d a b : BitVec 4) : Statement (.sum d a b) := by simp [Statement, encode]
theorem sqr (d a : BitVec 4) : Statement (.sqr d a) := by simp [Statement, encode]
theorem isqrt (d a : BitVec 4) : Statement (.isqrt d a) := by simp [Statement, encode]
theorem revr (d a : BitVec 4) : Statement (.revr d a) := by simp [Statement, encode]
theorem decode (d : BitVec 4) : Statement (.decode d) := by simp [Statement, encode]
theorem ldk (d k : BitVec 4) : Statement (.ldk d k) := by simp [Statement, encode]
theorem sobel (d a : BitVec 4) : Statement (.sobel d a) := by simp [Statement, encode]
theorem hough (d a : BitVec 4) : Statement (.hough d a) := by simp [Statement, encode]

end Sys2Proof.Laws.EncodedFields
end

