-- ==== Sys2Proof/Tests/Slice0.lean ====
section
/-! SUPPORT. Tests of one step each, their expected values from 95_test_vectors.md, and for every statement with hypotheses
a witness that meets them. -/

namespace Sys2Proof.Tests

-- One theorem after another: in parallel their kernel evaluations wait for each other in many threads.
set_option Elab.async false

open Sys2Proof.Machine

/-! ### Well-formedness: an ill-formed term for each check (R65, R81, R105) -/

theorem test_wf_dest_slot_missing : (Instr.decode 8).wellFormed Params.default = false := by decide
theorem test_wf_first_source_missing : (Instr.sqr 0 8).wellFormed Params.default = false := by decide
theorem test_wf_second_source_missing : (Instr.conv 2 0 8).wellFormed Params.default = false := by decide
theorem test_wf_rom_id_missing : (Instr.ldk 0 2).wellFormed Params.default = false := by decide
theorem test_wf_last_slot_and_rom_id :
    (Instr.sum 7 7 7).wellFormed Params.default = true ∧ (Instr.ldk 7 1).wellFormed Params.default = true := by decide
theorem test_wf_rom_id_is_no_slot : (Instr.ldk 0 1).wellFormed { Params.default with numSlots := 1 } = true := by decide

/-! ### Decoding: words written out from R64 and R66 (95_test_vectors.md section 2.1) -/

theorem test_decode_nop : decode 0b00000000000000000000000000000000 = .command .nop := by decide
theorem test_decode_conv : decode 0b00000000000001010110011100000001 = .command (.conv 7 6 5) := by decide
theorem test_decode_sum : decode 0b00000000000000010000001000000010 = .command (.sum 2 0 1) := by decide
theorem test_decode_sqr : decode 0b00000000000000000000000100000011 = .command (.sqr 1 0) := by decide
theorem test_decode_isqrt : decode 0b00000000000000000001001000000100 = .command (.isqrt 2 1) := by decide
theorem test_decode_revr : decode 0b00000000000000000001001000000101 = .command (.revr 2 1) := by decide
theorem test_decode_decode : decode 0b00000000000000000000001100000110 = .command (.decode 3) := by decide
theorem test_decode_ldk : decode 0b00000000000000000001001100000111 = .command (.ldk 3 1) := by decide
theorem test_decode_sobel : decode 0b00000000000000000000000100001000 = .command (.sobel 1 0) := by decide
theorem test_decode_hough : decode 0b00000000000000000000000100001001 = .command (.hough 1 0) := by decide

/-- The illegal words of section 2.1, one for each reason and each unused field. -/
theorem test_decode_illegal :
    decode 0x0000000A = .illegal .reservedOpcode ∧ decode 0x000000FF = .illegal .reservedOpcode ∧
    decode 0x00100001 = .illegal .reservedBits ∧ decode 0x80000002 = .illegal .reservedBits ∧
    decode 0x00010003 = .illegal .unusedField ∧ decode 0x00001006 = .illegal .unusedField ∧
    decode 0x00000100 = .illegal .unusedField ∧ decode 0x00800208 = .illegal .reservedBits := by decide

theorem test_encode_sample :
    encode (.conv 2 0 1) = 0x00010201 ∧ encode (.ldk 3 1) = 0x00001307 ∧ encode (.hough 1 0) = 0x00000109 := by decide

theorem test_table_word : decodeTableWord 32 0x00056701 = some (.conv 7 6 5) ∧ decodeTableWord 32 0x0A = none := by decide

theorem test_asm_text : (asmLine (.conv 2 0 1)).text = "CONV m2, m0, m1" ∧ (asmLine (.ldk 0 0)).text = "LDK m0, #KX" := by
  decide +kernel

/-- LDM skips the zero cells (R73). -/
theorem test_ldm_expansion :
    expand 0x1000 (.ldm 1 { rows := 1, cols := 2, cells := [[0, -1]] }) =
      [(0x101C, 1), (0x1020, 1), (0x1024, 2), (0x1028, 1), (0x102C, 0xFFFFFFFF)].map fun p : Nat × Word =>
        .host { kind := .write, addr := p.1, size := 4, v := p.2 } := by decide +kernel

/-! ### One step of each command (95_test_vectors.md sections 1 and 2) -/

/-- A block after reset, with the first slots holding the given matrices. -/
def loaded (ms : List Mat) : State :=
  { State.reset with slots := ms ++ List.replicate (8 - ms.length) Mat.empty }

/-- A row vector. -/
def row (cells : List Int) : Mat :=
  { rows := 1, cols := cells.length, cells := [cells] }

/-- `B` of section 0. -/
def matB : Mat :=
  { rows := 3, cols := 3, cells := [[1, 2, 3], [4, 5, 6], [7, 8, 9]] }

/-- Three rows of two. -/
def matTall : Mat :=
  { rows := 3, cols := 2, cells := [[1, 2], [3, 4], [5, 6]] }

/-- A block whose bitmap buffer holds the two header fields (R53) and the pixel bytes. -/
def bitmap (w h : Byte) (pixels : List Byte) (len : Word) (stride : Bool) : State :=
  { loaded [row [7]] with
    bmp := [(0x12, w), (0x13, 0), (0x14, 0), (0x15, 0), (0x16, h), (0x17, 0), (0x18, 0), (0x19, 0)] ++
      pixels.zipIdx.map fun p => (0x36 + p.2, p.1)
    bmpLen := len
    ctrl := { irqEn := false, bmpStride := stride } }

/-- Slot `n` and STATUS after the one step that executes the word `w`. -/
def after (w n : Nat) (s : State) : Option (Mat × Word) :=
  match step (s.withFetchWord 32 w) with
  | .next t => some (slotRead t n, statusWord t.status)
  | .fault _ => none
  | .refused _ => none

theorem test_nop_done : after 0x00000000 0 State.reset = some (Mat.empty, 0x00000002) := by decide +kernel

theorem test_nop_keeps_host_err :
    after 0x00000000 0 { State.reset with status := { Status.reset with hostErr := true, hostErrCode := 0x02 } } =
      some (Mat.empty, 0x0002000A) := by decide +kernel

theorem test_illegal_word : after 0x00800208 2 State.reset = some (Mat.empty, 0x00000104) := by decide +kernel

theorem test_bad_slot : after 0x00080201 2 State.reset = some (Mat.empty, 0x00000204) := by decide +kernel

theorem test_conv_not_flipped :
    after 0x00010201 2 (loaded [kernelKx, matB]) =
      some ({ rows := 3, cols := 3, cells := [[9, 6, -9], [20, 8, -20], [21, 6, -21]] }, 0x00000002) := by
  decide +kernel

theorem test_conv_empty_before_shape :
    after 0x00010201 2 (loaded [{ rows := 0, cols := 2, cells := [] }, matB]) = some (Mat.empty, 0x00000002) := by
  decide +kernel

theorem test_sum_same_slot : after 0x00011102 1 (loaded [Mat.empty, row [3, -4]]) = some (row [6, -8], 0x00000002) := by
  decide +kernel

theorem test_sum_overflow :
    after 0x00010202 2 (loaded [row [-2147483648], row [-1]]) = some (Mat.empty, 0x00000604) := by decide +kernel

theorem test_sqr_largest :
    after 0x00000103 1 (loaded [row [46340, -46340]]) = some (row [2147395600, 2147395600], 0x00000002) := by
  decide +kernel

theorem test_sqr_overflow : after 0x00000103 1 (loaded [row [-46341]]) = some (Mat.empty, 0x00000604) := by decide +kernel

theorem test_isqrt_edges :
    after 0x00000104 1 (loaded [row [2147483647, 2147395600, 2147395599, 130050, 24, 25]]) =
      some (row [46340, 46340, 46339, 360, 4, 5], 0x00000002) := by decide +kernel

theorem test_isqrt_negative_writes_nothing :
    after 0x00000104 1 (loaded [row [4, -1, 9], row [8]]) = some (row [8], 0x00000504) := by decide +kernel

theorem test_revr_rows :
    after 0x00000105 1 (loaded [matTall]) =
      some ({ rows := 3, cols := 2, cells := [[5, 6], [3, 4], [1, 2]] }, 0x00000002) := by decide +kernel

theorem test_revr_no_rows :
    after 0x00000105 1 (loaded [{ rows := 0, cols := 4, cells := [] }]) =
      some ({ rows := 0, cols := 4, cells := [] }, 0x00000002) := by decide +kernel

theorem test_decode_height_stride :
    after 0x00000006 0 (bitmap 2 3 [1, 2, 3, 4, 5, 6, 7, 8] 62 true) =
      some ({ rows := 3, cols := 2, cells := [[7, 8], [4, 5], [1, 2]] }, 0x00000002) := by decide +kernel

theorem test_decode_truncated_plane :
    after 0x00000006 0 (bitmap 3 2 [10, 20, 30, 40, 50] 59 false) = some (row [7], 0x00000704) := by decide +kernel

theorem test_ldk_ky :
    after 0x00001307 3 State.reset =
      some ({ rows := 3, cols := 3, cells := [[-1, -2, -1], [0, 0, 0], [1, 2, 1]] }, 0x00000002) := by decide +kernel

theorem test_ldk_bad_rom_id : after 0x0000F007 0 State.reset = some (Mat.empty, 0x00000A04) := by decide +kernel

theorem test_sobel_b :
    after 0x00000108 1 (loaded [matB]) =
      some ({ rows := 3, cols := 3, cells := [[15, 20, 19], [26, 25, 26], [24, 20, 27]] }, 0x00000002) := by
  decide +kernel

theorem test_sobel_overflow :
    after 0x00000108 1 (loaded [{ rows := 3, cols := 3, cells := [[0, 20000, 0], [0, 20000, 0], [0, 20000, 0]] }]) =
      some (Mat.empty, 0x00000604) := by decide +kernel

theorem test_hough_not_implemented : after 0x00000109 1 (loaded [matB, row [1]]) = some (row [1], 0x00000904) := by
  decide +kernel

/-! ### One Host access (95_test_vectors.md section 2.7) -/

/-- The value a read returned, and STATUS after it. -/
def readBack (a : Access) (s : State) : List Word × Word :=
  ((hostAccess a s).reads, statusWord (hostAccess a s).status)

/-- A block with NOP pending. -/
def busy : State :=
  hostAccess (writeAt 0x18 0) State.reset

theorem test_read_parameters :
    readBack (readAt 0x04) State.reset = ([0x01000100], 0) ∧ readBack (readAt 0x08) State.reset = ([0x00002008], 0) ∧
    readBack (readAt 0x0C) State.reset = ([0x00010036], 0) := by decide +kernel

theorem test_access_errors :
    readBack { kind := .read, off := 0x14, size := 2, v := 0 } State.reset = ([0], 0x00040008) ∧
    readBack (readAt 0x02) State.reset = ([0], 0x00040008) ∧ readBack (readAt 0x3C) State.reset = ([0], 0x00040008) ∧
    readBack (writeAt 0x00 5) State.reset = ([], 0x00040008) := by decide +kernel

theorem test_slot_sel_bounds :
    (hostAccess (writeAt 0x1C 7) State.reset).slotSel = 7 ∧ readBack (writeAt 0x1C 8) State.reset = ([], 0x00030008) := by
  decide +kernel

theorem test_dimension_bounds :
    slotRead (hostAccess (writeAt 0x20 256) State.reset) 0 = Mat.zeros 256 0 ∧
    readBack (writeAt 0x20 257) State.reset = ([], 0x00030008) := by decide +kernel

theorem test_cell_write :
    slotRead (hostAccess (writeAt 0x2C 0x80000000) { loaded [row [5, 6]] with cellAddr := 1 }) 0 =
      row [5, -2147483648] := by decide +kernel

theorem test_bmp_data_low_byte :
    bmpRead (hostAccess (writeAt 0x38 0x1234) { State.reset with bmpAddr := 65589 }) 65589 = 0x34 ∧
    readBack (readAt 0x38) { State.reset with bmpAddr := 65590 } = ([0], 0x00020008) := by decide +kernel

theorem test_ctrl_write :
    readBack (readAt 0x10) (hostAccess (writeAt 0x10 0xFFFFFFFB) State.reset) = ([3], 0) ∧
    ctrlWord (hostAccess (writeAt 0x10 7) State.reset).ctrl = 0 := by decide +kernel

theorem test_busy_guard :
    readBack (writeAt 0x18 5) busy = ([], 0x00010009) ∧ readBack (readAt 0x20) busy = ([0], 0x00010009) ∧
    readBack (readAt 0x30) busy = ([0], 0x00000001) ∧ readBack (writeAt 0x00 0) busy = ([], 0x00040009) ∧
    readBack (writeAt 0x1C 9) busy = ([], 0x00030009) ∧ readBack (writeAt 0x14 0x0E) busy = ([], 0x00000001) := by
  decide +kernel

theorem test_soft_reset_keeps_bitmap :
    bmpRead (hostAccess (writeAt 0x10 4) (bitmap 3 2 [0x55] 9 false)) 0x36 = 0x55 ∧
    slotRead (hostAccess (writeAt 0x10 4) (bitmap 3 2 [0x55] 9 false)) 0 = Mat.empty := by decide +kernel

/-! ### Witnesses: the hypotheses of the statements can be met -/

/-- A quantifier over cells, row by row, which can be decided. -/
theorem forall_cells {r c : Nat} {P : Nat → Nat → Prop} (h : ∀ i < r, ∀ j < c, P i j) :
    ∀ i j, i < r → j < c → P i j :=
  fun i j hi hj => h i hi j hj

/-- StepRunsDecodedCommand, each clause; NoCommandPendingAfterListedTurns needs none. -/
theorem test_witness_pending :
    busy.status.busy = true ∧ decode busy.pendWord = .command .nop ∧ busy.turns = [] ∧
    ({ busy with turns := [.engine] } : State).turns = .engine :: [] ∧
    ({ busy with pendWord := 0x0A } : State).status.busy = true ∧ ({ busy with pendWord := 0x0A } : State).turns = [] ∧
    decode ({ busy with pendWord := 0x0A } : State).pendWord = .illegal .reservedOpcode ∧
    ({ busy with pendWord := 0x0A, turns := [.engine] } : State).turns = .engine :: [] := by decide +kernel

/-- A block after reset whose window stands at 0x1000, with the given turns listed. -/
def atBase (turns : List Turn) : State :=
  { State.reset with params := { Params.default with base := 0x1000 }, turns := turns }

/-- The block answers at BASE + 0x3F and not at BASE + 0x40 or BASE - 1 (R40, R41). -/
theorem test_window_bounds :
    (busAccess ⟨.read, 0x103F, 4, 0⟩ (atBase [])).status.hostErrCode = 0x04 ∧
    (busAccess ⟨.read, 0x1000, 4, 0⟩ (atBase [])).reads = [0x434E5632] ∧
    busAccess ⟨.read, 0x1040, 4, 0⟩ (atBase []) = atBase [] ∧
    busAccess ⟨.write, 0x0FFF, 4, 0⟩ (atBase []) = atBase [] := by decide +kernel

/-- StepTakesEveryOtherTurn, each clause, with the first and the last address of the window and those beside it. -/
theorem test_witness_other_turns :
    State.reset.status.busy = false ∧ State.reset.turns = [] ∧
    ({ State.reset with turns := [.engine] } : State).turns = .engine :: [] ∧
    (atBase [hostRead 0x1000 .status]).turns = .host ⟨.read, 0x1014, 4, 0⟩ :: [] ∧
    (atBase []).params.base ≤ 0x1000 ∧ 0x103F < (atBase []).params.base + 0x40 ∧
    ¬((atBase []).params.base ≤ 0x0FFF ∧ 0x0FFF < (atBase []).params.base + 0x40) ∧
    ¬((atBase []).params.base ≤ 0x1040 ∧ 0x1040 < (atBase []).params.base + 0x40) ∧
    (atBase []).params.base % 0x40 = 0 ∧
    (atBase [hostWrite 0x1000 .cmd 0]).turns = hostWrite (atBase []).params.base .cmd 0 :: [] ∧
    (atBase [hostRead 0x1000 .id]).turns = hostRead (atBase []).params.base .id :: [] ∧
    ({ State.reset with turns := [.hardReset] } : State).turns = .hardReset :: [] := by decide +kernel

/-- FetchedWordRunsNext. -/
theorem test_witness_fetched : decode 0x00010201 = .command (.conv 2 0 1) := by decide

/-- IllegalWordsEndWithIllegalOpcode: the boundary of each reason, and a pending illegal word. -/
theorem test_witness_illegal :
    0x0A ≤ ((0x0000000A : Word).extractLsb' 0 8).toNat ∧ ¬0x0A ≤ ((0x00000009 : Word).extractLsb' 0 8).toNat ∧
    (0x00100001 : Word).extractLsb' 20 12 ≠ 0 ∧ (0x00010003 : Word).extractLsb' 16 4 ≠ 0 ∧
    (0x00001006 : Word).extractLsb' 12 4 ≠ 0 ∧ (0x00000100 : Word).extractLsb' 8 4 ≠ 0 ∧
    ({ busy with pendWord := 0x0A } : State).status.busy = true ∧
    decode ({ busy with pendWord := 0x0A } : State).pendWord = .illegal .reservedOpcode := by decide +kernel

/-- ResetIsLegal: the least and the greatest parameters of R6. -/
theorem test_witness_parameters :
    Params.Legal { numSlots := 1, maxRows := 3, maxCols := 3, bmpBufBytes := 0x36, base := 0 } ∧
    Params.Legal { numSlots := 16, maxRows := 65535, maxCols := 65535, bmpBufBytes := 0xFFFFFFFF, base := 0x40 } := by decide

/-- A legal matrix, from checks that can be decided. -/
theorem slotOk_of_checks {p : Params} {m : Mat} (h : m.Shaped) (hr : m.rows ≤ p.maxRows) (hc : m.cols ≤ p.maxCols)
    (hv : ∀ i < m.rows, ∀ j < m.cols, inRange32 (m.get i j) = true) : SlotOk p m :=
  ⟨h, hr, hc, forall_cells hv⟩

/-- A legal block with SQR of a non-empty slot pending. -/
def pendingSqr : State :=
  hostAccess (writeAt 0x18 0x00000103) (loaded [row [-3, 0, 7]])

/-- EveryStepKeepsLegality. -/
theorem test_witness_legal_step : Inv pendingSqr ∧ ∃ t, step pendingSqr = .next t := by
  refine ⟨⟨by decide, by decide, ?_, by decide, by decide, ⟨by decide, by decide, by decide, by decide, by decide,
    by decide⟩, by decide, by decide⟩, ⟨_, rfl⟩⟩
  intro m hm
  have hcases : m = row [-3, 0, 7] ∨ m = Mat.empty := by
    have hall : ∀ x ∈ pendingSqr.slots, x = row [-3, 0, 7] ∨ x = Mat.empty := by decide +kernel
    exact hall m hm
  rcases hcases with rfl | rfl
  · exact slotOk_of_checks (by decide) (by decide) (by decide) (by decide +kernel)
  · exact slotOk_of_checks (by decide) (by decide) (by decide) (by decide +kernel)

/-- CommandFrame and ErrorsOfEachCommand: a command that ends with an error, and one that completes. -/
theorem test_witness_command_ends :
    (∃ t, exec (.sqr 1 0) (loaded [row [2]]) = .next t ∧ t.status.done = true) ∧
    (∃ t, exec (.hough 1 0) State.reset = .next t ∧ State.reset.status.err = false ∧ t.status.err = true) ∧
    (∃ t, exec (.conv 2 0 1) (loaded [row [1, 1], matB]) = .next t ∧ t.status.errCode = 0x04) ∧
    (∃ t, exec (.sum 2 0 1) (loaded [row [1], matB]) = .next t ∧ t.status.errCode = 0x03) ∧
    (∃ t, exec (.sqr 1 0) (loaded [row [46341]]) = .next t ∧ t.status.errCode = 0x06) ∧
    (∃ t, exec (.isqrt 1 0) (loaded [row [-1]]) = .next t ∧ t.status.errCode = 0x05) ∧
    (∃ t, exec (.revr 8 0) State.reset = .next t ∧ t.status.errCode = 0x02) ∧
    (∃ t, exec (.decode 0) State.reset = .next t ∧ t.status.errCode = 0x07) ∧
    (∃ t, exec (.ldk 0 2) State.reset = .next t ∧ t.status.errCode = 0x0A) ∧
    (∃ t, exec (.sobel 1 0) (loaded [row [0, 23171]]) = .next t ∧ t.status.errCode = 0x06) := by
  refine ⟨⟨_, rfl, ?_⟩, ⟨_, rfl, ?_, ?_⟩, ⟨_, rfl, ?_⟩, ⟨_, rfl, ?_⟩, ⟨_, rfl, ?_⟩, ⟨_, rfl, ?_⟩, ⟨_, rfl, ?_⟩,
    ⟨_, rfl, ?_⟩, ⟨_, rfl, ?_⟩, ⟨_, rfl, ?_⟩⟩ <;> decide +kernel

/-- BadSlotExactlyWhenAFieldNamesNoSlot: slot 8 of 8, slot 7 of 8, and an instance with 16 slots. -/
theorem test_witness_slots :
    (∃ f ∈ (Instr.conv 2 0 8).slotOperands, State.reset.params.numSlots ≤ f.toNat) ∧
    SlotsExist (.conv 7 6 7) State.reset ∧ State.reset.status.err = false ∧
    (State.resetOf { Params.default with numSlots := 16 }).params.numSlots = 16 := by decide

/-- CommandDependsOnlyOnItsArguments: two different blocks that agree on what a command reads. -/
theorem test_witness_same_arguments :
    (loaded [matB]).slots = ({ loaded [matB] with cmd := 1 } : State).slots ∧ loaded [matB] ≠ { loaded [matB] with cmd := 1 } ∧
    (∀ addr, bmpRead (loaded [matB]) addr = bmpRead { loaded [matB] with cmd := 1 } addr) ∧
    ∃ t t', exec (.revr 1 0) (loaded [matB]) = .next t ∧ exec (.revr 1 0) { loaded [matB] with cmd := 1 } = .next t' :=
  ⟨rfl, by decide +kernel, fun _ => rfl, _, _, rfl, rfl⟩

/-- NopCompletes, its last clause: OPC 0 with the lowest and the highest other bit set. -/
theorem test_witness_nop_words :
    (0x00000100 : Word).extractLsb' 0 8 = 0x00 ∧ (0x00000100 : Word) ≠ 0 ∧
    (0x80000000 : Word).extractLsb' 0 8 = 0x00 ∧ (0x80000000 : Word) ≠ 0 ∧
    ({ busy with pendWord := 0x00000100 } : State).status.busy = true := by decide +kernel

/-- ConvOfEmptyGivesEmpty: each of the four ways to be empty. -/
theorem test_witness_conv_empty :
    SlotsExist (.conv 2 0 1) (loaded []) ∧
    (source (loaded [{ rows := 0, cols := 2, cells := [] }, matB]) 0).rows = 0 ∧
    (source (loaded [{ rows := 1, cols := 0, cells := [[]] }, matB]) 0).cols = 0 ∧
    (source (loaded [matB, { rows := 0, cols := 2, cells := [] }]) 1).rows = 0 ∧
    (source (loaded [matB, { rows := 1, cols := 0, cells := [[]] }]) 1).cols = 0 := by decide +kernel

/-- ConvRefusesEvenKernel: a 1x2 and a 2x1 kernel, and the least odd one. -/
theorem test_witness_conv_even :
    SlotsExist (.conv 2 0 1) (loaded [row [1, 1], matB]) ∧ 0 < (source (loaded [row [1, 1], matB]) 0).rows ∧
    0 < (source (loaded [row [1, 1], matB]) 0).cols ∧ 0 < (source (loaded [row [1, 1], matB]) 1).rows ∧
    0 < (source (loaded [row [1, 1], matB]) 1).cols ∧ ¬OddShaped (source (loaded [row [1, 1], matB]) 0) ∧
    ¬OddShaped (source (loaded [{ rows := 2, cols := 1, cells := [[1], [1]] }, matB]) 0) ∧
    OddShaped (source (loaded [row [1], matB]) 0) ∧ (loaded [row [1], matB]).status.err = false := by decide +kernel

/-- ConvComputesKernelSums: a sum of 2^31-1, and one of 2^31. -/
theorem test_witness_conv_range :
    SlotsExist (.conv 2 0 1) (loaded [row [1], row [2147483647]]) ∧
    OddShaped (source (loaded [row [1], row [2147483647]]) 0) ∧
    0 < (source (loaded [row [1], row [2147483647]]) 1).rows ∧
    0 < (source (loaded [row [1], row [2147483647]]) 1).cols ∧
    kernelSum (row [1]) (row [2147483647]) 0 0 = 2147483647 ∧
    kernelSum (row [2]) (row [1073741824]) 0 0 = 2147483648 := by decide +kernel

/-- ConvByZeroAndByIdentity: a zero kernel, and the kernel of 1, with the greatest and the least cell. -/
theorem test_witness_conv_zero_identity :
    SlotsExist (.conv 2 0 1) (loaded [row [0], row [2147483647, -2147483648]]) ∧
    SlotOk Params.default (source (loaded [row [0], row [2147483647, -2147483648]]) 1) ∧
    OddShaped (source (loaded [row [0], matB]) 0) ∧
    (∀ i j, i < (row [0]).rows → j < (row [0]).cols → (row [0]).get i j = 0) ∧
    source (loaded [row [1], matB]) 0 = { rows := 1, cols := 1, cells := [[1]] } :=
  ⟨by decide, slotOk_of_checks (by decide) (by decide) (by decide) (by decide +kernel), by decide,
    forall_cells (by decide +kernel), by decide⟩

/-- ConvCellIsLocal: two matrices that differ in a cell outside the kernel's reach. -/
theorem test_witness_conv_local :
    (row [1, 2, 3]).rows = (row [1, 2, 4]).rows ∧ (row [1, 2, 3]).cols = (row [1, 2, 4]).cols ∧
    (∀ u v, u < 1 → v < 3 → v ≤ 0 + (row [1, 1, 1]).cols / 2 → (row [1, 2, 3]).get u v = (row [1, 2, 4]).get u v) ∧
    (row [1, 2, 3]).get 0 2 ≠ (row [1, 2, 4]).get 0 2 :=
  ⟨rfl, rfl, forall_cells (by decide +kernel), by decide⟩

/-- ConvIsLinear: two matrices and two kernels of the same dimensions, and a cell. -/
theorem test_witness_conv_linear :
    (row [1, 2, 3]).rows = (row [4, 5, 6]).rows ∧ (row [1, 2, 3]).cols = (row [4, 5, 6]).cols ∧
    OddShaped (row [1, 2, 3]) ∧ 0 < (row [1, 2, 3]).rows ∧ 2 < (row [1, 2, 3]).cols := by decide

/-- SumAddsCellwise: different dimensions (even of empty matrices), a sum of 2^31-1 and one of 2^31. -/
theorem test_witness_sum :
    SlotsExist (.sum 2 0 1) (loaded [row [2147483647], row [0]]) ∧
    (source (loaded [Mat.empty, { rows := 0, cols := 3, cells := [] }]) 0).cols ≠
      (source (loaded [Mat.empty, { rows := 0, cols := 3, cells := [] }]) 1).cols ∧
    (source (loaded [row [2147483647], row [0]]) 0).rows = (source (loaded [row [2147483647], row [0]]) 1).rows ∧
    (source (loaded [row [2147483647], row [0]]) 0).cols = (source (loaded [row [2147483647], row [0]]) 1).cols ∧
    (row [2147483647]).get 0 0 + (row [0]).get 0 0 = 2147483647 ∧
    (row [2147483647]).get 0 0 + (row [1]).get 0 0 = 2147483648 := by decide +kernel

/-- SqrSquaresCellwise: a cell of magnitude 46341, and one of 46340. -/
theorem test_witness_sqr :
    SlotsExist (.sqr 1 0) (loaded [row [-46341]]) ∧ 46341 ≤ |(source (loaded [row [-46341]]) 0).get 0 0| ∧
    |(source (loaded [row [-46340]]) 0).get 0 0| ≤ 46340 := by
  refine ⟨by decide, ?_, ?_⟩ <;> rw [abs_of_nonpos (by decide +kernel)] <;> decide +kernel

/-- IsqrtTakesRootsCellwise: the cells -1 and 0. -/
theorem test_witness_isqrt :
    SlotsExist (.isqrt 1 0) (loaded [row [-1]]) ∧ (source (loaded [row [-1]]) 0).get 0 0 < 0 ∧
    0 ≤ (source (loaded [row [0]]) 0).get 0 0 := by decide +kernel

/-- SquareThenRootGivesMagnitude and RevrTwiceIsIdentity. -/
theorem test_witness_two_commands :
    SlotsExist (.sqr 1 0) (loaded [matTall]) ∧ SlotsExist (.isqrt 2 1) (loaded [matTall]) ∧
    SlotsExist (.revr 1 0) (loaded [matTall]) ∧ SlotsExist (.revr 2 1) (loaded [matTall]) ∧
    (loaded [matTall]).slots.length = (loaded [matTall]).params.numSlots ∧ (source (loaded [matTall]) 0).Shaped ∧
    (∀ i < 3, ∀ j < 2, 0 ≤ (source (loaded [matTall]) 0).get i j ∧ (source (loaded [matTall]) 0).get i j ≤ 46340) ∧
    ∃ t, exec (.revr 1 0) (loaded [matTall]) = .next t ∧ ∃ u, exec (.revr 2 1) t = .next u :=
  ⟨by decide, by decide, by decide, by decide, by decide, by decide, by decide +kernel, _, rfl, _, rfl⟩

/-- A block whose slots hold at most 3 rows and 3 columns. -/
def smallSlots (s : State) : State :=
  { s with params := { s.params with maxRows := 3, maxCols := 3 } }

/-- DecodeChecksTheBuffer: the header one byte short and just long enough; a width or a height of 0; one row or one column
too many, and just as many as fit; a pixel plane one byte short. -/
theorem test_witness_decode_checks :
    SlotsExist (.decode 0) (bitmap 1 1 [] 0x19 false) ∧ (bitmap 1 1 [] 0x19 false).bmpLen.toNat < 0x1A ∧
    0x1A ≤ (bitmap 0 1 [] 0x1A false).bmpLen.toNat ∧ le32 (bitmap 0 1 [] 0x1A false) 0x12 ≤ 0 ∧
    le32 (bitmap 1 0 [] 0x1A false) 0x16 ≤ 0 ∧ 0 < le32 (smallSlots (bitmap 1 4 [] 0x1A false)) 0x12 ∧
    ((smallSlots (bitmap 1 4 [] 0x1A false)).params.maxRows : Int) < le32 (smallSlots (bitmap 1 4 [] 0x1A false)) 0x16 ∧
    ((smallSlots (bitmap 4 1 [] 0x1A false)).params.maxCols : Int) < le32 (smallSlots (bitmap 4 1 [] 0x1A false)) 0x12 ∧
    le32 (smallSlots (bitmap 3 3 [] 62 false)) 0x16 ≤ (smallSlots (bitmap 3 3 [] 62 false)).params.maxRows ∧
    le32 (smallSlots (bitmap 3 3 [] 62 false)) 0x12 ≤ (smallSlots (bitmap 3 3 [] 62 false)).params.maxCols ∧
    ((smallSlots (bitmap 3 3 [] 62 false)).bmpLen.toNat : Int) <
      0x36 + (le32 (smallSlots (bitmap 3 3 [] 62 false)) 0x16 - 1) * 3 + 3 := by decide +kernel

/-- DecodeReadsThePixels and DecodeIgnoresEveryOtherByte: a buffer of exactly the needed length, with either stride. -/
theorem test_witness_decode_reads :
    SlotsExist (.decode 0) (bitmap 3 2 [1, 2, 3, 4, 5, 6] 60 false) ∧
    0x1A ≤ (bitmap 3 2 [1, 2, 3, 4, 5, 6] 60 false).bmpLen.toNat ∧
    le32 (bitmap 3 2 [1, 2, 3, 4, 5, 6] 60 false) 0x12 = (3 : Nat) ∧
    le32 (bitmap 3 2 [1, 2, 3, 4, 5, 6] 60 false) 0x16 = (2 : Nat) ∧ 2 ≤ Params.default.maxRows ∧
    3 ≤ Params.default.maxCols ∧ 0x36 + (2 - 1) * 3 + 3 ≤ (bitmap 3 2 [1, 2, 3, 4, 5, 6] 60 false).bmpLen.toNat ∧
    0x36 + (2 - 1) * 2 + 3 ≤ (bitmap 3 2 [1, 2, 3, 4, 5] 59 true).bmpLen.toNat := by decide +kernel

/-- DecodeIgnoresEveryOtherByte: two buffers that differ in a byte past the pixels. -/
theorem test_witness_decode_other_byte :
    bitmap 1 1 [9, 2] 0x38 false = { bitmap 1 1 [9, 1] 0x38 false with bmp := (bitmap 1 1 [9, 2] 0x38 false).bmp } ∧
    bmpRead (bitmap 1 1 [9, 2] 0x38 false) 0x37 ≠ bmpRead (bitmap 1 1 [9, 1] 0x38 false) 0x37 ∧
    (∀ k < 8, bmpRead (bitmap 1 1 [9, 2] 0x38 false) (0x12 + k) = bmpRead (bitmap 1 1 [9, 1] 0x38 false) (0x12 + k)) ∧
    bmpRead (bitmap 1 1 [9, 2] 0x38 false) 0x36 = bmpRead (bitmap 1 1 [9, 1] 0x38 false) 0x36 := by decide +kernel

/-- LdkLoadsRomKernels: ids 0, 1 and 2; HoughReportsNotImplemented. -/
theorem test_witness_ldk_hough :
    SlotsExist (.ldk 7 0) State.reset ∧ SlotsExist (.hough 7 7) State.reset ∧ (0 : BitVec 4).toNat = 0 ∧
    (1 : BitVec 4).toNat = 1 ∧ 2 ≤ (2 : BitVec 4).toNat := by decide

/-- SobelComputesMagnitudes: an empty source, an energy above 2^31-1, and one in range. -/
theorem test_witness_sobel :
    SlotsExist (.sobel 1 0) (loaded [row [0, 20000]]) ∧ (source (loaded []) 0).rows = 0 ∧
    0 < (source (loaded [row [0, 20000]]) 0).rows ∧ 0 < (source (loaded [row [0, 20000]]) 0).cols ∧
    kernelSum kernelKx (row [0, 20000]) 0 0 ^ 2 + kernelSum kernelKy (row [0, 20000]) 0 0 ^ 2 ≤ 2147483647 ∧
    2147483647 < kernelSum kernelKx (row [0, 23171]) 0 0 ^ 2 + kernelSum kernelKy (row [0, 23171]) 0 0 ^ 2 := by
  decide +kernel

/-- SobelIsItsCommandSequence: five slots that are pairwise different, a source on which SOBEL completes and one on which
it ends with OVERFLOW. -/
theorem test_witness_sobel_sequence :
    (loaded [row [5]]).status.err = false ∧ (loaded [row [5]]).slots.length = (loaded [row [5]]).params.numSlots ∧
    (∀ f ∈ ([1, 0, 2, 3, 7] : List (BitVec 4)), f.toNat < (loaded [row [5]]).params.numSlots) ∧
    (∀ t ∈ ([2, 3, 7] : List (BitVec 4)), t ≠ 0 ∧ t ≠ 1) ∧
    exec (.sobel 1 0) (loaded [row [5]]) = .next (okState 1 (row [0]) (loaded [row [5]])) ∧
    exec (.sobel 1 0) (loaded [row [0, 23171]]) = .next (errState 0x06 (loaded [row [0, 23171]])) :=
  ⟨rfl, rfl, by decide, by decide, congrArg Host.Outcome.next (by decide +kernel),
    congrArg Host.Outcome.next (by decide +kernel)⟩

/-- A 3x3 matrix of sevens, the least that has an interior cell. -/
def sevens : Mat :=
  { rows := 3, cols := 3, cells := [[7, 7, 7], [7, 7, 7], [7, 7, 7]] }

/-- SobelOfConstantIsZeroInside and SobelOfBytesNeverOverflows. -/
theorem test_witness_sobel_constant :
    SlotsExist (.sobel 1 0) (loaded [sevens]) ∧ (loaded [sevens]).slots.length = (loaded [sevens]).params.numSlots ∧
    3 ≤ (source (loaded [sevens]) 0).rows ∧ 3 ≤ (source (loaded [sevens]) 0).cols ∧
    (∀ i j, i < 3 → j < 3 → (source (loaded [sevens]) 0).get i j = 7) ∧
    (∀ i j, i < 1 → j < 2 → 0 ≤ (source (loaded [row [0, 255]]) 0).get i j ∧
      (source (loaded [row [0, 255]]) 0).get i j ≤ 255) ∧
    ∃ y, exec (.sobel 1 0) (loaded [sevens]) = .next (okState 1 y (loaded [sevens])) :=
  ⟨by decide, by decide, by decide, by decide, forall_cells (by decide +kernel), forall_cells (by decide +kernel),
    matIsqrt (sobelEnergy sevens), congrArg Host.Outcome.next (by decide +kernel)⟩

/-- ForbiddenAccessesAreRefused: each way to be refused. -/
theorem test_witness_forbidden :
    ({ kind := .read, off := 0x14, size := 2, v := 0 } : Access).size ≠ 4 ∧ (readAt 0x3D).off.toNat % 4 ≠ 0 ∧
    (readAt 0x3C).size = 4 ∧ (readAt 0x3C).off = 0x3C ∧ (writeAt 0x0C 0).kind = .write ∧
    (writeAt 0x0C 0).off ∈ ([0x00, 0x04, 0x08, 0x0C] : List (BitVec 6)) := by decide

/-- CtrlWriteStoresTwoBits, SoftResetKeepsBitmapOnly and IrqFallsAndRises: the written values. -/
theorem test_witness_ctrl_values :
    (0xFFFFFFFB : Word).getLsbD 2 = false ∧ (0x00000004 : Word).getLsbD 2 = true ∧ (0x00000002 : Word).getLsbD 0 = false ∧
    (0x00000001 : Word).getLsbD 2 = false ∧ (0x00000001 : Word).getLsbD 0 = true := by decide

/-- IrqFallsAndRises: a block with DONE, a STATUS write that clears it, and a pending command with IRQ_EN = 1. -/
theorem test_witness_irq :
    ((statusDone Status.reset).done = true ∧ (statusDone Status.reset).err = false ∧ (0x00000002 : Word).getLsbD 1 = true) ∧
    State.reset.status.busy = false ∧
    ({ busy with ctrl := { irqEn := true, bmpStride := false } } : State).ctrl.irqEn = true ∧
    ∃ t, engineTurn { busy with ctrl := { irqEn := true, bmpStride := false } } = .next t :=
  ⟨by decide, by decide, by decide, _, rfl⟩

/-- CmdWriteIssuesOneCommand, SelectorWrites, BmpLenWrite: idle and busy, and the values at each boundary. -/
theorem test_witness_register_writes :
    State.reset.status.busy = false ∧ busy.status.busy = true ∧ (7 : Word).toNat < State.reset.params.numSlots ∧
    State.reset.params.numSlots ≤ 16 ∧ State.reset.params.numSlots ≤ (8 : Word).toNat ∧
    (65590 : Word).toNat ≤ State.reset.params.bmpBufBytes ∧ State.reset.params.bmpBufBytes < (65591 : Word).toNat := by
  decide +kernel

/-- DimensionWritesClearTheSlot: the greatest dimension and one above it, and dimensions that a read returns whole. -/
theorem test_witness_dimensions :
    State.reset.status.busy = false ∧ State.reset.slotSel.toNat < State.reset.slots.length ∧
    (256 : Word).toNat ≤ State.reset.params.maxRows ∧ State.reset.params.maxRows < (257 : Word).toNat ∧
    (256 : Word).toNat ≤ State.reset.params.maxCols ∧ State.reset.params.maxCols < (257 : Word).toNat ∧
    (source State.reset State.reset.slotSel).rows < 65536 ∧ (source State.reset State.reset.slotSel).cols < 65536 := by
  decide

/-- CellDataReachesOneCell: the last row and the last column, one row too far, and one column too far. -/
theorem test_witness_cell :
    (loaded [matB]).status.busy = false ∧ (loaded [matB]).slotSel.toNat < (loaded [matB]).slots.length ∧
    (source (loaded [matB]) (loaded [matB]).slotSel).Shaped ∧
    ((0x00020002 : Word).extractLsb' 16 16).toNat < (source (loaded [matB]) 0).rows ∧
    ((0x00020002 : Word).extractLsb' 0 16).toNat < (source (loaded [matB]) 0).cols ∧
    (source (loaded [matB]) 0).rows ≤ ((0x00030000 : Word).extractLsb' 16 16).toNat ∧
    (source (loaded [matB]) 0).cols ≤ ((0x00000003 : Word).extractLsb' 0 16).toNat := by decide

/-- BmpDataReachesOneByte: the last byte of the buffer, and the address after it. -/
theorem test_witness_bmp_address :
    State.reset.status.busy = false ∧ (65589 : Word).toNat < State.reset.params.bmpBufBytes ∧
    State.reset.params.bmpBufBytes ≤ (65590 : Word).toNat := by decide

/-- HostCannotDisturbPendingCommand and BusyGuardRefusesGuardedAccesses. -/
theorem test_witness_busy_access : busy.status.busy = true ∧ ¬isSoftReset (writeAt 0x10 3) ∧ isSoftReset (writeAt 0x10 4) := by
  decide +kernel

/-- HostSeesNoSlotOrByteWhileBusy: two busy blocks that differ in a slot and in a byte. -/
theorem test_witness_busy_secret :
    pendingSqr.status.busy = true ∧
    ({ pendingSqr with slots := [matB], bmp := [(0, 1)] } : State) =
      { pendingSqr with slots := [matB], bmp := [(0, 1)], bmpDraw := pendingSqr.bmpDraw } ∧
    pendingSqr.slots ≠ [matB] := by decide +kernel

/-- HardResetValues. -/
theorem test_witness_hard_reset :
    ({ pendingSqr with turns := [.hardReset] } : State).turns = .hardReset :: [] := rfl

end Sys2Proof.Tests
end

/-! The state after reset is legal: each part of `Inv` that a reset value has to meet, then the statement. -/

namespace Sys2Proof.Machine

/-- R6: the defaults lie in their own ranges. -/
theorem Params.legal_default : Params.default.Legal := by decide

/-- R14, R37: the empty matrix fits every instance; it has no cell that could be out of range. -/
theorem SlotOk.empty (p : Params) : SlotOk p Mat.empty where
  shaped := Mat.shaped_empty
  rows_le := Nat.zero_le _
  cols_le := Nat.zero_le _
  in_range i _ hi _ := absurd hi (Nat.not_lt_zero i)

/-- The slots as every reset leaves them (R39). -/
theorem slotOk_of_mem_replicate_empty {p : Params} {n : Nat} {m : Mat} (hm : m ∈ List.replicate n Mat.empty) :
    SlotOk p m := by
  rw [List.eq_of_mem_replicate hm]
  exact SlotOk.empty p

/-- R25, R39: STATUS = 0 has no bit set and both codes 0. -/
theorem StatusOk.reset : StatusOk Status.reset := by
  constructor <;> decide

/-- R39: after reset SLOT_SEL names slot 0, which exists because NUM_SLOTS is at least 1 (R6); the other parts of `Inv`
hold of the reset values whatever the parameters are. -/
theorem Inv.resetOf {p : Params} (hp : p.Legal) : Inv (State.resetOf p) where
  params_legal := hp
  slots_length := List.length_replicate
  slots_ok _ hm := slotOk_of_mem_replicate_empty hm
  bmp_wf := Memory.wf_nil
  bmp_inside _ hc := absurd hc List.not_mem_nil
  status_ok := StatusOk.reset
  slot_sel_lt := by
    obtain ⟨⟨one_le_numSlots, -⟩, -⟩ := hp
    exact one_le_numSlots
  bmp_len_le := Nat.zero_le _

/-- Settles O11: `State.reset` is the instance of `Inv.resetOf` at the default parameters. -/
theorem resetIsLegal : Obligations.ResetIsLegal :=
  ⟨Inv.resetOf Params.legal_default, fun _ hp => Inv.resetOf hp⟩

end Sys2Proof.Machine

/-! What every command comes to: one family rule for each command, behind the same dispatch checks and the same
completion. -/

namespace Sys2Proof.Machine

/-- What the family rule of a command answers, once its slot fields have passed the BAD_SLOT check (R75, R80). -/
def familyResult (i : Instr) (s : State) : CmdResult :=
  match i with
  | .nop => .okNone
  | .conv d a b => convResult d (source s a) (source s b)
  | .sum d a b => sumResult d (source s a) (source s b)
  | .sqr d a => sqrResult d (source s a)
  | .isqrt d a => isqrtResult d (source s a)
  | .revr d a => revrResult d (source s a)
  | .decode d => decodeResult d s
  | .ldk d k => ldkResult d k
  | .sobel d a => sobelResult d (source s a)
  | .hough _ _ => .err .notImplemented

/-- The whole of a command (R75, R76, R80): the BAD_SLOT check on its slot operands, its family rule, completion. -/
theorem exec_eq_complete (i : Instr) (s : State) :
    exec i s = .next (complete (withSlots s i.slotOperands (familyResult i s)) s) := by
  cases i <;> rfl

theorem exec_next_iff {i : Instr} {s t : State} :
    exec i s = .next t ↔ t = complete (withSlots s i.slotOperands (familyResult i s)) s := by
  rw [exec_eq_complete, Host.Outcome.next.injEq, eq_comm]

/-! ### The slot a result names -/

/-- A result names no slot but `d` (R76). -/
def CmdResult.WritesOnly (w : Option (BitVec 4)) : CmdResult → Prop
  | .okSlot d _ => w = some d
  | .okNone => True
  | .err _ => True

theorem rangeChecked_writesOnly (d : BitVec 4) (y : Mat) : (rangeChecked d y).WritesOnly (some d) := by
  unfold rangeChecked
  split
  · rfl
  · trivial

/-- Every family rule names the destination of its command, if it names a slot at all. -/
theorem familyResult_writesOnly (i : Instr) (s : State) : (familyResult i s).WritesOnly (writtenSlot i) := by
  cases i with
  | nop => trivial
  | conv d a b =>
    simp only [familyResult, convResult]
    split_ifs
    · rfl
    · trivial
    · exact rangeChecked_writesOnly d _
  | sum d a b =>
    simp only [familyResult, sumResult]
    split_ifs
    · trivial
    · exact rangeChecked_writesOnly d _
  | sqr d a => exact rangeChecked_writesOnly d _
  | isqrt d a =>
    simp only [familyResult, isqrtResult]
    split_ifs
    · rfl
    · trivial
  | revr d a => rfl
  | decode d =>
    simp only [familyResult, decodeResult]
    split_ifs
    · trivial
    · trivial
    · trivial
    · trivial
    · rfl
  | ldk d k =>
    simp only [familyResult, ldkResult]
    split
    · rfl
    · trivial
  | sobel d a =>
    simp only [familyResult, sobelResult]
    split_ifs
    · rfl
    · trivial
    · trivial
    · trivial
    · rfl
  | hough d a => trivial

/-- A command ends with its family rule's result or with BAD_SLOT, and so names no slot but its destination. -/
theorem withSlots_writesOnly (i : Instr) (s : State) :
    (withSlots s i.slotOperands (familyResult i s)).WritesOnly (writtenSlot i) := by
  rcases withSlots_cases s i.slotOperands (familyResult i s) with h | h <;> rw [h]
  · exact familyResult_writesOnly i s
  · trivial

/-! ### What completion does to the slots and to STATUS -/

/-- Completion leaves every slot as it was but the one its result names. -/
theorem slotRead_complete_ne {w : Option (BitVec 4)} {r : CmdResult} (hr : r.WritesOnly w) {n : Nat}
    (hn : ∀ d, w = some d → n ≠ d.toNat) (s : State) : slotRead (complete r s) n = slotRead s n := by
  cases r with
  | okSlot d x => exact slotRead_slotWrite_ne (hn d hr).symm x s
  | okNone => rfl
  | err e => rfl

@[simp] theorem complete_status_busy (r : CmdResult) (s : State) : (complete r s).status.busy = false := by
  cases r <;> rfl

@[simp] theorem complete_status_hostErr (r : CmdResult) (s : State) :
    (complete r s).status.hostErr = s.status.hostErr := by
  cases r <;> rfl

@[simp] theorem complete_status_hostErrCode (r : CmdResult) (s : State) :
    (complete r s).status.hostErrCode = s.status.hostErrCode := by
  cases r <;> rfl

/-- R110: a completion that sets ERR, which no successful one does, writes no slot. -/
theorem complete_slots_of_err {r : CmdResult} {s : State} (h0 : s.status.err = false)
    (h1 : (complete r s).status.err = true) : (complete r s).slots = s.slots := by
  cases r with
  | okSlot d x => exact absurd (h0.symm.trans h1) Bool.false_ne_true
  | okNone => rfl
  | err e => rfl

/-- Settles O14: a command is the completion of a result that names no slot but its destination. -/
theorem commandFrame : Obligations.CommandFrame := by
  intro i s t ht
  obtain rfl := exec_next_iff.mp ht
  refine ⟨fun n hn => slotRead_complete_ne (withSlots_writesOnly i s) hn s,
    bmpRead_congr (complete_bmp _ s) (complete_bmpDraw _ s), ?_⟩
  simp only [complete_params, complete_ctrl, complete_cmd, complete_slotSel, complete_cellAddr, complete_bmpLen,
    complete_bmpAddr, complete_pendWord, complete_pendStride, complete_turns, complete_reads, complete_status_hostErr,
    complete_status_hostErrCode, complete_status_busy, true_and]
  exact complete_slots_of_err

end Sys2Proof.Machine

/-! Every step keeps the state legal. The order is that of the definitions: the parts of `Inv` under each update of the
state, the matrices that the family rules build, then commands, Host accesses, resets and turns. -/

namespace Sys2Proof.Machine

/-! ### Slots -/

theorem inRange32_iff (x : Int) : inRange32 x = true ↔ -2147483648 ≤ x ∧ x ≤ 2147483647 := by
  simp [inRange32]

theorem inRange32_toInt (v : Word) : inRange32 v.toInt = true := by
  have := BitVec.le_toInt v
  have := BitVec.toInt_lt (x := v)
  rw [inRange32_iff]
  omega

/-- A matrix built within the limits of R14 from values in range. -/
theorem SlotOk.ofFn {p : Params} {r c : Nat} {f : Nat → Nat → Int} (hr : r ≤ p.maxRows) (hc : c ≤ p.maxCols)
    (hf : ∀ i j, i < r → j < c → inRange32 (f i j) = true) : SlotOk p (Mat.ofFn r c f) where
  shaped := Mat.shaped_ofFn r c f
  rows_le := hr
  cols_le := hc
  in_range i j hi hj := by
    rw [Mat.rows_ofFn] at hi
    rw [Mat.cols_ofFn] at hj
    rw [Mat.get_ofFn hi hj]
    exact hf i j hi hj

/-- R50: a zero matrix within the limits. -/
theorem SlotOk.zeros {p : Params} {r c : Nat} (hr : r ≤ p.maxRows) (hc : c ≤ p.maxCols) :
    SlotOk p (Mat.zeros r c) :=
  SlotOk.ofFn hr hc fun _ _ _ _ => by decide

/-- R51: one cell changed to a value in range. -/
theorem SlotOk.set {p : Params} {m : Mat} (h : SlotOk p m) (i j : Nat) {x : Int} (hx : inRange32 x = true) :
    SlotOk p (m.set i j x) where
  shaped := Mat.shaped_set h.shaped i j x
  rows_le := h.rows_le
  cols_le := h.cols_le
  in_range a b ha hb := by
    by_cases hab : a = i ∧ b = j
    · obtain ⟨rfl, rfl⟩ := hab
      rwa [Mat.get_set_self h.shaped ha hb]
    · rw [Mat.get_set_ne m x hab]
      exact h.in_range a b ha hb

/-- R96: the reversed rows hold no other cells. -/
theorem SlotOk.matReverse {p : Params} {m : Mat} (h : SlotOk p m) : SlotOk p (matReverse m) :=
  SlotOk.ofFn h.rows_le h.cols_le fun _ _ _ hj => h.in_range _ _ (by omega) hj

/-- R101, R103: pixels are bytes, and so in range whatever the buffer holds. -/
theorem SlotOk.storedRows {p : Params} {w h : Nat} (hh : h ≤ p.maxRows) (hw : w ≤ p.maxCols) (s : State)
    (stride : Nat) : SlotOk p (storedRows s w h stride) :=
  SlotOk.ofFn hh hw fun i j _ _ => by
    have := (bmpRead s (0x36 + i * stride + j)).isLt
    rw [inRange32_iff]
    omega

/-- R18: both ROM kernels are 3x3, and MAX_ROWS and MAX_COLS are at least 3 (R6). -/
theorem SlotOk.of_romKernel {p : Params} (hp : p.Legal) {k : BitVec 4} {x : Mat} (h : romKernel k = some x) :
    SlotOk p x := by
  obtain ⟨-, ⟨three_le_maxRows, -⟩, ⟨three_le_maxCols, -⟩, -⟩ := hp
  unfold romKernel at h
  split at h
  · cases h
    exact ⟨by decide, three_le_maxRows, three_le_maxCols, (Mat.all_iff kernelKx inRange32).mp (by decide)⟩
  · cases h
    exact ⟨by decide, three_le_maxRows, three_le_maxCols, (Mat.all_iff kernelKy inRange32).mp (by decide)⟩
  · cases h

/-! ### The integer square root is no greater than its argument -/

/-- Each digit is kept only if the square stays at or below `x`. -/
theorem isqrtDigits_mul_self_le {x : Nat} (n : Nat) {r : Nat} (hr : r * r ≤ x) :
    isqrtDigits x n r * isqrtDigits x n r ≤ x := by
  induction n generalizing r with
  | zero => exact hr
  | succ n ih =>
    simp only [isqrtDigits]
    split
    · next hd => exact ih hd
    · exact ih hr

theorem isqrt_mul_self_le (x : Nat) : isqrt x * isqrt x ≤ x :=
  isqrtDigits_mul_self_le _ (Nat.zero_le x)

theorem isqrt_le_self (x : Nat) : isqrt x ≤ x :=
  (Nat.le_mul_self _).trans (isqrt_mul_self_le x)

/-- R94: the roots of cells in range are in range. -/
theorem SlotOk.matIsqrt {p : Params} {m : Mat} (h : SlotOk p m) : SlotOk p (matIsqrt m) :=
  SlotOk.ofFn h.rows_le h.cols_le fun i j hi hj => by
    have hroot := isqrt_le_self (m.get i j).toNat
    have hcell := (inRange32_iff _).mp (h.in_range i j hi hj)
    rw [inRange32_iff]
    omega

/-! ### STATUS -/

/-- R76: with a command pending, DONE and ERR are clear before a completion sets one of them. -/
theorem StatusOk.done {st : Status} (h : StatusOk st) (hb : st.busy = true) : StatusOk (statusDone st) :=
  { h with
    busy_clear := nofun
    not_both := by
      obtain ⟨-, err_clear⟩ := h.busy_clear hb
      simp [err_clear] }

theorem cmdErrorCode_ne_zero (e : CmdError) : cmdErrorCode e ≠ 0 := by
  cases e <;> decide

theorem hostErrorCode_ne_zero (e : HostError) : hostErrorCode e ≠ 0 := by
  cases e <;> decide

/-- R110: ERR is set together with a code of R109. -/
theorem StatusOk.err {st : Status} (h : StatusOk st) (hb : st.busy = true) (e : CmdError) :
    StatusOk (statusErr e st) :=
  { h with
    busy_clear := nofun
    not_both := by
      obtain ⟨done_clear, -⟩ := h.busy_clear hb
      simp [done_clear]
    err_code := ⟨nofun, fun hzero => absurd hzero (cmdErrorCode_ne_zero e)⟩
    err_code_le := (cmdErrorCode_range e).2 }

/-- R74: an accepted command clears DONE, ERR and ERRCODE. -/
theorem StatusOk.accepted {st : Status} (h : StatusOk st) : StatusOk (statusAccepted st) :=
  { h with
    busy_clear := fun _ => ⟨rfl, rfl⟩
    not_both := nofun
    err_code := by simp
    err_code_le := Nat.zero_le _ }

/-- R43: HOST_ERR is set together with a code of R44. -/
theorem StatusOk.refused {st : Status} (h : StatusOk st) (e : HostError) : StatusOk (statusRefused e st) :=
  { h with
    host_err_code := ⟨nofun, fun hzero => absurd hzero (hostErrorCode_ne_zero e)⟩
    host_err_code_le := (hostErrorCode_range e).2 }

/-- R25: a bit and its code are cleared together, so the code stays 0 exactly when the bit is. -/
theorem cleared_bit_iff_cleared_code {bit : Bool} {code : BitVec 8} (h : bit = false ↔ code = 0) (clear : Bool) :
    (bit && !clear) = false ↔ (if clear then 0 else code) = 0 := by
  cases clear with
  | false => simpa using h
  | true => simp

theorem cleared_code_le {code : BitVec 8} {n : Nat} (h : code.toNat ≤ n) (clear : Bool) :
    (if clear then 0 else code).toNat ≤ n := by
  cases clear with
  | false => exact h
  | true => exact Nat.zero_le n

/-- R25: whatever a STATUS write clears, STATUS stays legal. -/
theorem StatusOk.w1c {st : Status} (h : StatusOk st) (v : Word) : StatusOk (statusW1C v st) where
  busy_clear hb := by
    obtain ⟨done_clear, err_clear⟩ := h.busy_clear hb
    simp [done_clear, err_clear]
  not_both := by
    have := h.not_both
    simp only [statusW1C_done, statusW1C_err, Bool.and_eq_true]
    tauto
  err_code := cleared_bit_iff_cleared_code h.err_code _
  err_code_le := cleared_code_le h.err_code_le _
  host_err_code := cleared_bit_iff_cleared_code h.host_err_code _
  host_err_code_le := cleared_code_le h.host_err_code_le _

/-! ### Updates of the state -/

/-- What a slot number reads is legal: a slot, or the empty matrix where there is none (log entry 11). -/
theorem Inv.slotRead {s : State} (h : Inv s) (n : Nat) : SlotOk s.params (slotRead s n) := by
  by_cases hn : n < s.slots.length
  · have hget : Machine.slotRead s n = s.slots[n] := by simp [Machine.slotRead, hn]
    rw [hget]
    exact h.slots_ok _ (List.getElem_mem hn)
  · have hget : Machine.slotRead s n = Mat.empty := by simp [Machine.slotRead, Nat.le_of_not_lt hn]
    rw [hget]
    exact SlotOk.empty _

theorem Inv.slotWrite {s : State} (h : Inv s) (n : Nat) {x : Mat} (hx : SlotOk s.params x) :
    Inv (slotWrite n x s) :=
  { h with
    slots_length := by simpa using h.slots_length
    slots_ok := fun m hm => by
      rcases List.mem_or_eq_of_mem_set hm with hold | rfl
      · exact h.slots_ok m hold
      · exact hx }

theorem Inv.bmpWrite {s : State} (h : Inv s) {addr : Nat} (ha : addr < s.params.bmpBufBytes) (v : Byte) :
    Inv (bmpWrite addr v s) :=
  { h with
    bmp_wf := Memory.wf_store h.bmp_wf addr v
    bmp_inside := fun c hc => by
      rcases Memory.mem_store hc with heq | hold
      · exact heq ▸ ha
      · exact h.bmp_inside c hold }

theorem Inv.withTurns {s : State} (h : Inv s) (turns : List Turn) : Inv { s with turns := turns } :=
  { h with }

theorem Inv.returnToHost {s : State} (h : Inv s) (v : Word) : Inv (returnToHost v s) :=
  { h with }

theorem Inv.refuseAccess {s : State} (h : Inv s) (a : Access) (e : HostError) : Inv (refuseAccess a e s) := by
  have hrefuse : Inv (refuse e s) := { h with status_ok := h.status_ok.refused e }
  unfold Machine.refuseAccess
  split
  · exact hrefuse.returnToHost 0
  · exact hrefuse

theorem Inv.acceptCommand {s : State} (h : Inv s) (v : Word) : Inv (acceptCommand v s) :=
  { h with status_ok := h.status_ok.accepted }

theorem Inv.raise {s : State} (h : Inv s) (hb : s.status.busy = true) (e : CmdError) : Inv (raise e s) :=
  { h with status_ok := h.status_ok.err hb e }

/-- Both resets leave the reset values of R39 in the registers and slots. -/
theorem Inv.resetRegisters {s : State} (h : Inv s) : Inv (resetRegisters s) :=
  { h with
    slots_length := List.length_replicate
    slots_ok := fun _ hm => slotOk_of_mem_replicate_empty hm
    status_ok := StatusOk.reset
    slot_sel_lt := Nat.zero_lt_of_lt h.slot_sel_lt
    bmp_len_le := Nat.zero_le _ }

theorem Inv.hardReset {s : State} (h : Inv s) : Inv (hardReset s) :=
  { h.resetRegisters with
    bmp_wf := Memory.wf_nil
    bmp_inside := fun _ hc => absurd hc List.not_mem_nil }

/-! ### Commands -/

/-- A result whose matrix, if it has one, fits a slot (R14). -/
def CmdResult.Fits (p : Params) : CmdResult → Prop
  | .okSlot _ x => SlotOk p x
  | .okNone => True
  | .err _ => True

/-- R89: what passes the range check fits a slot when its dimensions do. -/
theorem rangeChecked_fits {p : Params} {r c : Nat} (hr : r ≤ p.maxRows) (hc : c ≤ p.maxCols) (d : BitVec 4)
    (f : Nat → Nat → Int) : (rangeChecked d (Mat.ofFn r c f)).Fits p := by
  unfold rangeChecked
  split
  · next hall => exact ⟨Mat.shaped_ofFn r c f, hr, hc, (Mat.all_iff _ _).mp hall⟩
  · trivial

/-- R98, R99: DECODE's CAPACITY check bounds the dimensions, and its cells are bytes. -/
theorem decodeResult_fits (d : BitVec 4) (s : State) : (decodeResult d s).Fits s.params := by
  simp only [decodeResult]
  split_ifs with hheader hpositive hcapacity hplane
  · trivial
  · trivial
  · trivial
  · trivial
  · exact (SlotOk.storedRows (by omega) (by omega) s _).matReverse

/-- R106: the last range check is on the energies, and their roots are no greater. -/
theorem sobelResult_fits {p : Params} {x : Mat} (hx : SlotOk p x) (d : BitVec 4) : (sobelResult d x).Fits p := by
  simp only [sobelResult]
  split_ifs with hempty hgradients hsquares henergy
  · exact SlotOk.empty p
  · trivial
  · trivial
  · trivial
  · have hall : (sobelEnergy x).all inRange32 = true := by simpa using henergy
    have hok : SlotOk p (sobelEnergy x) := ⟨Mat.shaped_ofFn _ _ _, hx.rows_le, hx.cols_le, (Mat.all_iff _ _).mp hall⟩
    exact hok.matIsqrt

/-- Every family rule answers a matrix that fits a slot, if it answers one. -/
theorem familyResult_fits {s : State} (h : Inv s) (i : Instr) : (familyResult i s).Fits s.params := by
  have hsrc (f : BitVec 4) : SlotOk s.params (source s f) := h.slotRead f.toNat
  cases i with
  | nop => trivial
  | conv d a b =>
    simp only [familyResult, convResult]
    split_ifs
    · exact SlotOk.empty _
    · trivial
    · exact rangeChecked_fits (hsrc b).rows_le (hsrc b).cols_le d _
  | sum d a b =>
    simp only [familyResult, sumResult]
    split_ifs
    · trivial
    · exact rangeChecked_fits (hsrc a).rows_le (hsrc a).cols_le d _
  | sqr d a => exact rangeChecked_fits (hsrc a).rows_le (hsrc a).cols_le d _
  | isqrt d a =>
    simp only [familyResult, isqrtResult]
    split_ifs
    · exact (hsrc a).matIsqrt
    · trivial
  | revr d a => exact (hsrc a).matReverse
  | decode d => exact decodeResult_fits d s
  | ldk d k =>
    simp only [familyResult, ldkResult]
    split
    · next x hx => exact SlotOk.of_romKernel h.params_legal hx
    · trivial
  | sobel d a => exact sobelResult_fits (hsrc a) d
  | hough d a => trivial

/-- R76: completing a pending command with a result that fits. -/
theorem Inv.complete {s : State} (h : Inv s) (hb : s.status.busy = true) {r : CmdResult} (hr : r.Fits s.params) :
    Inv (complete r s) := by
  cases r with
  | okSlot d x => exact { h.slotWrite d.toNat hr with status_ok := h.status_ok.done hb }
  | okNone => exact { h with status_ok := h.status_ok.done hb }
  | err e => exact h.raise hb e

theorem Inv.exec {s t : State} (h : Inv s) (hb : s.status.busy = true) {i : Instr} (ht : exec i s = .next t) :
    Inv t := by
  obtain rfl := exec_next_iff.mp ht
  refine h.complete hb ?_
  rcases withSlots_cases s i.slotOperands (familyResult i s) with hr | hr <;> rw [hr]
  · exact familyResult_fits h i
  · trivial

/-! ### Host accesses -/

/-- R27: the value stored in SLOT_SEL is the value compared, since NUM_SLOTS is at most 16. -/
theorem toNat_extractLsb'_four {v : Word} (h : v.toNat < 16) : (v.extractLsb' 0 4).toNat = v.toNat := by
  rw [BitVec.extractLsb'_toNat, Nat.shiftRight_zero, Nat.mod_eq_of_lt h]

/-- A write that takes effect keeps the state legal, register by register (R49 to R52). -/
theorem Inv.writeReg {s t : State} (h : Inv s) {r : Reg} {v : Word} (ht : writeReg r v s = .ok t) : Inv t := by
  have hsel : SlotOk s.params (selectedSlot s) := h.slotRead _
  cases r with
  | id | cfgDim | cfgMisc | bmpCap => cases ht
  | ctrl =>
    cases ht
    unfold writeCtrl
    split
    · exact h.resetRegisters
    · exact { h with }
  | status =>
    cases ht
    exact { h with status_ok := h.status_ok.w1c v }
  | cmd =>
    cases ht
    exact h.acceptCommand v
  | slotSel =>
    simp only [Machine.writeReg, writeSlotSel] at ht
    split at ht <;> cases ht
    next hv =>
      obtain ⟨⟨-, numSlots_le⟩, -⟩ := h.params_legal
      exact { h with slot_sel_lt := (toNat_extractLsb'_four (by omega)).trans_lt hv }
  | slotRows =>
    simp only [Machine.writeReg, writeSlotRows] at ht
    split at ht <;> cases ht
    next hv => exact h.slotWrite _ (SlotOk.zeros (Nat.le_of_not_lt hv) hsel.cols_le)
  | slotCols =>
    simp only [Machine.writeReg, writeSlotCols] at ht
    split at ht <;> cases ht
    next hv => exact h.slotWrite _ (SlotOk.zeros hsel.rows_le (Nat.le_of_not_lt hv))
  | cellAddr | bmpAddr =>
    cases ht
    exact { h with }
  | cellData =>
    simp only [Machine.writeReg, writeCellData] at ht
    split at ht <;> cases ht
    exact h.slotWrite _ (hsel.set _ _ (inRange32_toInt v))
  | bmpLen =>
    simp only [Machine.writeReg, writeBmpLen] at ht
    split at ht <;> cases ht
    next hv => exact { h with bmp_len_le := Nat.le_of_not_lt hv }
  | bmpData =>
    simp only [Machine.writeReg, writeBmpData] at ht
    split at ht <;> cases ht
    next hv => exact h.bmpWrite (of_decide_eq_true hv) _

theorem Inv.hostAccess {s : State} (h : Inv s) (a : Access) : Inv (hostAccess a s) := by
  rcases hostAccess_cases a s with ⟨e, heq⟩ | ⟨r, v, -, -, -, heq⟩ | ⟨r, t, -, -, hw, heq⟩ <;> rw [heq]
  · exact h.refuseAccess a e
  · exact h.returnToHost v
  · exact h.writeReg hw

theorem Inv.busAccess {s : State} (h : Inv s) (a : BusAccess) : Inv (busAccess a s) := by
  rcases busAccess_cases a s with ⟨-, -, heq⟩ | ⟨-, heq⟩ <;> rw [heq]
  · exact h.hostAccess _
  · exact h

/-! ### Turns -/

theorem Inv.engineTurn {s t : State} (h : Inv s) (ht : engineTurn s = .next t) : Inv t := by
  cases hb : s.status.busy with
  | false =>
    rw [engineTurn_idle hb] at ht
    cases ht
    exact h
  | true =>
    rw [engineTurn_busy hb] at ht
    cases hd : decode s.pendWord with
    | command i =>
      rw [runPending_command hd] at ht
      exact h.exec hb ht
    | illegal why =>
      rw [runPending_illegal hd] at ht
      cases ht
      exact h.raise hb .illegalOpcode

theorem Inv.takeTurn {s t : State} (h : Inv s) {turn : Turn} (ht : takeTurn turn s = .next t) : Inv t := by
  cases turn with
  | host a =>
    cases ht
    exact h.busAccess a
  | hardReset =>
    cases ht
    exact h.hardReset
  | engine => exact h.engineTurn ht

/-- Settles O12: a step is one turn, and every kind of turn keeps `Inv`. -/
theorem everyStepKeepsLegality : Obligations.EveryStepKeepsLegality := by
  intro s t h ht
  cases hturns : s.turns with
  | nil => exact h.engineTurn ((step_nil hturns).symm.trans ht)
  | cons turn rest => exact (h.withTurns rest).takeTurn ((step_cons hturns).symm.trans ht)

end Sys2Proof.Machine

/-! Single accesses at a register's own offset that the checks of R45 let through, and what the registers hold as words. -/

namespace Sys2Proof.Machine

/-! ### Accesses past the checks 1 to 4 of R45 -/

section
variable {r : Reg} {s : State}

theorem not_busy_and_guarded {k : AccessKind} (hg : s.status.busy = true → guarded k r = false) :
    ¬(s.status.busy = true ∧ guarded k r = true) :=
  fun ⟨hb, hguard⟩ => Bool.false_ne_true ((hg hb).symm.trans hguard)

theorem hostAccess_readAt_ok {v : Word} (hg : s.status.busy = true → guarded .read r = false)
    (hr : readReg r s = .ok v) : hostAccess (readAt (regOffset r)) s = readState v s := by
  rw [hostAccess_readAt, if_neg (not_busy_and_guarded hg), hr]

theorem hostAccess_readAt_error {e : HostError} (hg : s.status.busy = true → guarded .read r = false)
    (hr : readReg r s = .error e) :
    hostAccess (readAt (regOffset r)) s = refusedState .read (hostErrorCode e) s := by
  rw [hostAccess_readAt, if_neg (not_busy_and_guarded hg), hr]

theorem hostAccess_writeAt_ok {v : Word} {t : State} (hro : readOnly r = false)
    (hg : s.status.busy = true → guarded .write r = false) (hw : writeReg r v s = .ok t) :
    hostAccess (writeAt (regOffset r) v) s = t := by
  rw [hostAccess_writeAt, if_neg (Bool.eq_false_iff.mp hro),
    if_neg (not_busy_and_guarded hg), hw]

theorem hostAccess_writeAt_error {v : Word} {e : HostError} (hro : readOnly r = false)
    (hg : s.status.busy = true → guarded .write r = false) (hw : writeReg r v s = .error e) :
    hostAccess (writeAt (regOffset r) v) s = refusedState .write (hostErrorCode e) s := by
  rw [hostAccess_writeAt, if_neg (Bool.eq_false_iff.mp hro),
    if_neg (not_busy_and_guarded hg), hw]

/-- The BUSY guard asks nothing of an idle block (R125). -/
theorem guard_of_idle (hb : s.status.busy = false) (k : AccessKind) (r : Reg) :
    s.status.busy = true → guarded k r = false :=
  fun hbusy => absurd (hb.symm.trans hbusy) Bool.false_ne_true

end

/-! ### Registers as words -/

/-- Upper bits that read 0 leave the field's number as the word's. -/
theorem zero_append_eq_ofNat (m : Nat) {n : Nat} (x : BitVec n) : 0#m ++ x = BitVec.ofNat (m + n) x.toNat := by
  have hx : x.toNat < 2 ^ (m + n) := x.isLt.trans_le (Nat.pow_le_pow_right Nat.two_pos (Nat.le_add_left n m))
  refine BitVec.eq_of_toNat_eq ?_
  rw [toNat_append_add, BitVec.toNat_ofNat, BitVec.toNat_ofNat, Nat.mod_eq_of_lt hx]
  simp

/-- The low bits of a word, as a number modulo their width. -/
theorem extractLsb'_zero_eq_ofNat {m : Nat} (n : Nat) (x : BitVec m) : x.extractLsb' 0 n = BitVec.ofNat n x.toNat := by
  refine BitVec.eq_of_toNat_eq ?_
  rw [BitVec.extractLsb'_toNat, Nat.shiftRight_zero, BitVec.toNat_ofNat]

theorem readCfgDim_eq (s : State) :
    readCfgDim s = BitVec.ofNat 32 (s.params.maxCols % 65536 * 65536 + s.params.maxRows % 65536) := by
  refine BitVec.eq_of_toNat_eq ?_
  simp only [readCfgDim, toNat_append_add, BitVec.toNat_ofNat]
  omega

theorem readCfgMisc_eq (s : State) : readCfgMisc s = BitVec.ofNat 32 (0x2000 + s.params.numSlots % 256) := by
  refine BitVec.eq_of_toNat_eq ?_
  simp only [readCfgMisc, toNat_append_add, BitVec.toNat_ofNat]
  omega

theorem ctrlWord_eq (c : Ctrl) : ctrlWord c = BitVec.ofNat 32 (c.irqEn.toNat + 2 * c.bmpStride.toNat) := by
  have := c.irqEn.toNat_lt
  have := c.bmpStride.toNat_lt
  refine BitVec.eq_of_toNat_eq ?_
  simp only [ctrlWord, toNat_append_add, BitVec.toNat_ofNat, BitVec.toNat_ofBool]
  omega

theorem statusWord_eq (st : Status) :
    statusWord st = BitVec.ofNat 32 (st.busy.toNat + 2 * st.done.toNat + 4 * st.err.toNat + 8 * st.hostErr.toNat +
      256 * st.errCode.toNat + 65536 * st.hostErrCode.toNat) := by
  have := st.busy.toNat_lt
  have := st.done.toNat_lt
  have := st.err.toNat_lt
  have := st.hostErr.toNat_lt
  have := st.errCode.isLt
  have := st.hostErrCode.isLt
  refine BitVec.eq_of_toNat_eq ?_
  simp only [statusWord, toNat_append_add, BitVec.toNat_ofNat, BitVec.toNat_ofBool]
  omega

/-- Settles O45: each of these reads passes the BUSY guard, and its word is the number that its fields spell. -/
theorem unguardedReadsReturnRegisters : Obligations.UnguardedReadsReturnRegisters := by
  intro s
  have read_eq {r : Reg} {v w : Word} (hg : guarded .read r = false) (hr : readReg r s = .ok v) (hvw : v = w) :
      hostAccess (readAt (regOffset r)) s = readState w s :=
    hvw ▸ hostAccess_readAt_ok (fun _ => hg) hr
  exact ⟨read_eq (r := .id) rfl rfl rfl, read_eq (r := .cfgDim) rfl rfl (readCfgDim_eq s),
    read_eq (r := .cfgMisc) rfl rfl (readCfgMisc_eq s), read_eq (r := .bmpCap) rfl rfl rfl,
    read_eq (r := .ctrl) rfl rfl (ctrlWord_eq s.ctrl), read_eq (r := .status) rfl rfl (statusWord_eq s.status),
    read_eq (r := .cmd) rfl rfl rfl, read_eq (r := .slotSel) rfl rfl (zero_append_eq_ofNat 28 s.slotSel),
    read_eq (r := .cellAddr) rfl rfl rfl, read_eq (r := .bmpLen) rfl rfl rfl, read_eq (r := .bmpAddr) rfl rfl rfl⟩

/-! ### CTRL, STATUS, the selectors and BMP_LEN -/

theorem writeCtrl_of_clear {v : Word} (hv : v.getLsbD 2 = false) (s : State) :
    writeCtrl v s = { s with ctrl := { irqEn := v.getLsbD 0, bmpStride := v.getLsbD 1 } } :=
  if_neg (Bool.eq_false_iff.mp hv)

theorem writeCtrl_of_set {v : Word} (hv : v.getLsbD 2 = true) (s : State) : writeCtrl v s = softReset s :=
  if_pos hv

/-- A CTRL write passes every check, idle or busy (R24, R125). -/
theorem hostAccess_writeCtrl (v : Word) (s : State) : hostAccess (writeAt 0x10 v) s = writeCtrl v s :=
  hostAccess_writeAt_ok (r := .ctrl) rfl (fun _ => rfl) rfl

/-- A STATUS write passes every check, idle or busy (R25, R125). -/
theorem hostAccess_writeStatus (v : Word) (s : State) : hostAccess (writeAt 0x14 v) s = writeStatus v s :=
  hostAccess_writeAt_ok (r := .status) rfl (fun _ => rfl) rfl

/-- Settles O46. -/
theorem ctrlWriteStoresTwoBits : Obligations.CtrlWriteStoresTwoBits := by
  intro v s hv
  rw [hostAccess_writeCtrl, writeCtrl_of_clear hv]

/-- W1C as a choice between 0 and the bit's old value. -/
theorem and_not_eq_ite (bit clear : Bool) : (bit && !clear) = if clear then false else bit := by
  cases clear with
  | false => exact Bool.and_true bit
  | true => exact Bool.and_false bit

/-- Settles O47: the W1C effect is stored whole, and each of its bits is a choice by the bit written. -/
theorem statusWriteClearsBits : Obligations.StatusWriteClearsBits := by
  intro v s
  rw [hostAccess_writeStatus, writeStatus, statusW1C, and_not_eq_ite, and_not_eq_ite, and_not_eq_ite]

theorem writeSlotSel_of_lt {v : Word} {s : State} (hv : v.toNat < s.params.numSlots) :
    writeSlotSel v s = .ok { s with slotSel := v.extractLsb' 0 4 } :=
  if_pos hv

theorem writeSlotSel_of_le {v : Word} {s : State} (hv : s.params.numSlots ≤ v.toNat) :
    writeSlotSel v s = .error .value :=
  if_neg (Nat.not_lt.mpr hv)

/-- Settles O49: no selector is guarded, and only SLOT_SEL compares its value. -/
theorem selectorWrites : Obligations.SelectorWrites := by
  intro v s
  refine ⟨fun hv _ => ?_, fun hv => ?_, ?_, ?_⟩
  · rw [← extractLsb'_zero_eq_ofNat]
    exact hostAccess_writeAt_ok (r := .slotSel) rfl (fun _ => rfl) (writeSlotSel_of_lt hv)
  · exact hostAccess_writeAt_error (r := .slotSel) rfl (fun _ => rfl) (writeSlotSel_of_le hv)
  · exact hostAccess_writeAt_ok (r := .cellAddr) rfl (fun _ => rfl) rfl
  · exact hostAccess_writeAt_ok (r := .bmpAddr) rfl (fun _ => rfl) rfl

theorem writeBmpLen_of_le {v : Word} {s : State} (hv : v.toNat ≤ s.params.bmpBufBytes) :
    writeBmpLen v s = .ok { s with bmpLen := v } :=
  if_neg (Nat.not_lt.mpr hv)

theorem writeBmpLen_of_lt {v : Word} {s : State} (hv : s.params.bmpBufBytes < v.toNat) :
    writeBmpLen v s = .error .value :=
  if_pos hv

/-- Settles O50. -/
theorem bmpLenWrite : Obligations.BmpLenWrite := by
  intro v s hb
  exact ⟨fun hv => hostAccess_writeAt_ok (r := .bmpLen) rfl (guard_of_idle hb _ _) (writeBmpLen_of_le hv),
    fun hv => hostAccess_writeAt_error (r := .bmpLen) rfl (guard_of_idle hb _ _) (writeBmpLen_of_lt hv)⟩

/-! ### Resets -/

/-- Both resets leave DONE, ERR and IRQ_EN clear (R39, R114). -/
theorem irq_resetRegisters (s : State) : irq (resetRegisters s) = false := rfl

theorem irq_hardReset (s : State) : irq (hardReset s) = false := rfl

/-- Right after a hardware reset no byte is written, so every byte is one of the new draw (R38). -/
theorem bmpRead_hardReset (s : State) (addr : Nat) :
    bmpRead (hardReset s) addr = Config.drawnByte (s.bmpDraw + 1) addr := rfl

/-- Settles O57: the CTRL write is the soft reset, which touches neither the contents nor the draw of the buffer. -/
theorem softResetKeepsBitmapOnly : Obligations.SoftResetKeepsBitmapOnly := by
  intro v s hv
  refine ⟨softReset s, by rw [hostAccess_writeCtrl, writeCtrl_of_set hv], softReset_slots s, softReset_ctrl s,
    softReset_status s, softReset_cmd s, softReset_slotSel s, softReset_cellAddr s, softReset_bmpLen s,
    softReset_bmpAddr s, ?_, irq_resetRegisters s, softReset_params s, softReset_turns s, softReset_reads s⟩
  exact bmpRead_congr (softReset_bmp s) (softReset_bmpDraw s)

/-- Settles O58: the turn is the hardware reset of the state without that turn. -/
theorem hardResetValues : Obligations.HardResetValues := by
  intro s rest hturns
  exact ⟨hardReset { s with turns := rest }, step_cons hturns, hardReset_slots _, hardReset_ctrl _, hardReset_status _,
    hardReset_cmd _, hardReset_slotSel _, hardReset_cellAddr _, hardReset_bmpLen _, hardReset_bmpAddr _,
    bmpRead_hardReset _, irq_hardReset _, hardReset_params _, hardReset_turns _, hardReset_reads _⟩

end Sys2Proof.Machine

/-! The three window registers: the dimensions of the selected slot, one of its cells, one byte of the buffer. -/

namespace Sys2Proof.Machine

theorem isMatrix_ofFn (r c : Nat) (f : Nat → Nat → Int) : IsMatrix (Mat.ofFn r c f) r c f :=
  ⟨Mat.shaped_ofFn r c f, rfl, rfl, fun _ _ hi hj => Mat.get_ofFn hi hj⟩

/-- R51: one cell changed, as a matrix given cell by cell. -/
theorem isMatrix_set {m : Mat} (hm : m.Shaped) {i j : Nat} (hi : i < m.rows) (hj : j < m.cols) (x : Int) :
    IsMatrix (m.set i j x) m.rows m.cols fun a b => if a = i ∧ b = j then x else m.get a b := by
  refine ⟨Mat.shaped_set hm i j x, rfl, rfl, fun a b _ _ => ?_⟩
  show _ = if a = i ∧ b = j then x else m.get a b
  split
  · next hab =>
    obtain ⟨rfl, rfl⟩ := hab
    exact Mat.get_set_self hm hi hj x
  · next hab => exact Mat.get_set_ne m x hab

/-! ### SLOT_ROWS and SLOT_COLS -/

theorem writeSlotRows_of_le {v : Word} {s : State} (hv : v.toNat ≤ s.params.maxRows) :
    writeSlotRows v s = .ok (slotWrite s.slotSel.toNat (Mat.zeros v.toNat (selectedSlot s).cols) s) :=
  if_neg (Nat.not_lt.mpr hv)

theorem writeSlotRows_of_lt {v : Word} {s : State} (hv : s.params.maxRows < v.toNat) :
    writeSlotRows v s = .error .value :=
  if_pos hv

theorem writeSlotCols_of_le {v : Word} {s : State} (hv : v.toNat ≤ s.params.maxCols) :
    writeSlotCols v s = .ok (slotWrite s.slotSel.toNat (Mat.zeros (selectedSlot s).rows v.toNat) s) :=
  if_neg (Nat.not_lt.mpr hv)

theorem writeSlotCols_of_lt {v : Word} {s : State} (hv : s.params.maxCols < v.toNat) :
    writeSlotCols v s = .error .value :=
  if_pos hv

/-- A dimension below 2^16 reads as the word of that number (R28, R29). -/
theorem dimension_word {n : Nat} (hn : n < 65536) : 0#16 ++ BitVec.ofNat 16 n = BitVec.ofNat 32 n := by
  rw [zero_append_eq_ofNat, BitVec.toNat_ofNat, Nat.mod_eq_of_lt hn]

/-- Settles O51: in each direction the matrix written is the zero matrix with the other dimension kept. -/
theorem dimensionWritesClearTheSlot : Obligations.DimensionWritesClearTheSlot := by
  intro v s hb _
  have idle := guard_of_idle hb
  refine ⟨fun hv => ⟨_, ?_, isMatrix_ofFn _ _ _⟩, fun hv => ?_, fun hv => ⟨_, ?_, isMatrix_ofFn _ _ _⟩, fun hv => ?_,
    fun hn => ?_, fun hn => ?_⟩
  · exact hostAccess_writeAt_ok (r := .slotRows) rfl (idle _ _) (writeSlotRows_of_le hv)
  · exact hostAccess_writeAt_error (r := .slotRows) rfl (idle _ _) (writeSlotRows_of_lt hv)
  · exact hostAccess_writeAt_ok (r := .slotCols) rfl (idle _ _) (writeSlotCols_of_le hv)
  · exact hostAccess_writeAt_error (r := .slotCols) rfl (idle _ _) (writeSlotCols_of_lt hv)
  · rw [← dimension_word hn]
    exact hostAccess_readAt_ok (r := .slotRows) (idle _ _) rfl
  · rw [← dimension_word hn]
    exact hostAccess_readAt_ok (r := .slotCols) (idle _ _) rfl

/-! ### CELL_DATA -/

theorem cellInRange_iff (s : State) :
    cellInRange s = true ↔ cellRow s < (selectedSlot s).rows ∧ cellCol s < (selectedSlot s).cols := by
  simp [cellInRange]

section
variable {s : State}

theorem readCellData_inside (h : cellInRange s = true) :
    readCellData s = .ok (BitVec.ofInt 32 ((selectedSlot s).get (cellRow s) (cellCol s))) :=
  if_pos h

theorem readCellData_outside (h : ¬cellInRange s = true) : readCellData s = .error .range :=
  if_neg h

theorem writeCellData_inside (h : cellInRange s = true) (v : Word) :
    writeCellData v s =
      .ok (slotWrite s.slotSel.toNat ((selectedSlot s).set (cellRow s) (cellCol s) v.toInt) s) :=
  if_pos h

theorem writeCellData_outside (h : ¬cellInRange s = true) (v : Word) : writeCellData v s = .error .range :=
  if_neg h

/-- After a write to the selected slot, SLOT_SEL names the matrix written. -/
theorem selectedSlot_slotWrite (h : s.slotSel.toNat < s.slots.length) (x : Mat) :
    selectedSlot (slotWrite s.slotSel.toNat x s) = x :=
  slotRead_slotWrite_self h

/-- R51: the cell just written reads back as the word written. -/
theorem readCellData_after_write (hsel : s.slotSel.toNat < s.slots.length) (hshaped : (selectedSlot s).Shaped)
    (h : cellInRange s = true) (v : Word) :
    readCellData (slotWrite s.slotSel.toNat ((selectedSlot s).set (cellRow s) (cellCol s) v.toInt) s) = .ok v := by
  obtain ⟨hrow, hcol⟩ := (cellInRange_iff s).mp h
  have hslot := selectedSlot_slotWrite hsel ((selectedSlot s).set (cellRow s) (cellCol s) v.toInt)
  rw [readCellData_inside (by rw [cellInRange_iff, hslot]; exact ⟨hrow, hcol⟩), hslot]
  exact congrArg Except.ok ((congrArg _ (Mat.get_set_self hshaped hrow hcol _)).trans BitVec.ofInt_toInt)

end

/-- Settles O52: outside, both directions meet the same check; inside, the slot is the old matrix with one cell set. -/
theorem cellDataReachesOneCell : Obligations.CellDataReachesOneCell := by
  intro v s hb hsel hshaped
  have idle := guard_of_idle hb
  refine ⟨fun houtside => ?_, fun hrow hcol => ?_⟩
  · have hrange : ¬cellInRange s = true := fun h => by
      obtain ⟨hrow, hcol⟩ := (cellInRange_iff s).mp h
      exact houtside.elim (Nat.not_le.mpr hrow) (Nat.not_le.mpr hcol)
    exact ⟨hostAccess_readAt_error (r := .cellData) (idle _ _) (readCellData_outside hrange),
      hostAccess_writeAt_error (r := .cellData) rfl (idle _ _) (writeCellData_outside hrange v)⟩
  · have hrange : cellInRange s = true := (cellInRange_iff s).mpr ⟨hrow, hcol⟩
    have hwrite : hostAccess (writeAt 0x2C v) s =
        slotWrite s.slotSel.toNat ((selectedSlot s).set (cellRow s) (cellCol s) v.toInt) s :=
      hostAccess_writeAt_ok (r := .cellData) rfl (idle _ _) (writeCellData_inside hrange v)
    refine ⟨hostAccess_readAt_ok (r := .cellData) (idle _ _) (readCellData_inside hrange),
      ⟨_, hwrite, isMatrix_set hshaped hrow hcol _⟩, ?_⟩
    rw [hwrite]
    exact hostAccess_readAt_ok (r := .cellData) (idle _ _) (readCellData_after_write hsel hshaped hrange v)

/-! ### BMP_DATA -/

section
variable {s : State}

theorem readBmpData_inside (h : s.bmpAddr.toNat < s.params.bmpBufBytes) :
    readBmpData s = .ok (0#24 ++ bmpRead s s.bmpAddr.toNat) :=
  if_pos (decide_eq_true h)

theorem readBmpData_outside (h : s.params.bmpBufBytes ≤ s.bmpAddr.toNat) : readBmpData s = .error .range :=
  if_neg fun hlt => absurd (of_decide_eq_true hlt) (Nat.not_lt.mpr h)

theorem writeBmpData_inside (h : s.bmpAddr.toNat < s.params.bmpBufBytes) (v : Word) :
    writeBmpData v s = .ok (bmpWrite s.bmpAddr.toNat (v.extractLsb' 0 8) s) :=
  if_pos (decide_eq_true h)

theorem writeBmpData_outside (h : s.params.bmpBufBytes ≤ s.bmpAddr.toNat) (v : Word) :
    writeBmpData v s = .error .range :=
  if_neg fun hlt => absurd (of_decide_eq_true hlt) (Nat.not_lt.mpr h)

end

/-- R10: every byte after a write. -/
theorem bmpRead_bmpWrite (addr other : Nat) (b : Byte) (s : State) :
    bmpRead (bmpWrite addr b s) other = if other = addr then b else bmpRead s other := by
  split
  · next h => rw [h, bmpRead_bmpWrite_self]
  · next h => exact bmpRead_bmpWrite_ne h b s

/-- Settles O53: the write stores the low byte at BMP_ADDR, and the buffer's contents are the only field it changes. -/
theorem bmpDataReachesOneByte : Obligations.BmpDataReachesOneByte := by
  intro v s hb
  have idle := guard_of_idle hb
  refine ⟨fun houtside => ⟨?_, ?_⟩, fun hinside => ?_⟩
  · exact hostAccess_readAt_error (r := .bmpData) (idle _ _) (readBmpData_outside houtside)
  · exact hostAccess_writeAt_error (r := .bmpData) rfl (idle _ _) (writeBmpData_outside houtside v)
  · have hread : hostAccess (readAt 0x38) s = readState (0#24 ++ bmpRead s s.bmpAddr.toNat) s :=
      hostAccess_readAt_ok (r := .bmpData) (idle _ _) (readBmpData_inside hinside)
    have hwrite : hostAccess (writeAt 0x38 v) s = bmpWrite s.bmpAddr.toNat (v.extractLsb' 0 8) s :=
      hostAccess_writeAt_ok (r := .bmpData) rfl (idle _ _) (writeBmpData_inside hinside v)
    rw [hread, hwrite, zero_append_eq_ofNat, ← extractLsb'_zero_eq_ofNat]
    exact ⟨rfl, rfl, fun addr => bmpRead_bmpWrite _ addr _ s⟩

end Sys2Proof.Machine

/-! Host accesses as a whole: each branch of one access, the refusals, what an access leaves unchanged, and what it cannot
see while a command is pending. -/

namespace Sys2Proof.Machine

/-! ### The branches of one access (R42 to R45) -/

section
variable {a : Access} {s : State} {r : Reg} {e : HostError}

theorem hostAccess_of_accessTarget_error (ht : accessTarget a s = .error e) : hostAccess a s = refuseAccess a e s := by
  simp only [hostAccess, ht]

theorem hostAccess_of_readReg_ok {v : Word} (ht : accessTarget a s = .ok r) (hk : a.kind = .read)
    (hr : readReg r s = .ok v) : hostAccess a s = returnToHost v s := by
  simp only [hostAccess, ht, hk, hr]

theorem hostAccess_of_readReg_error (ht : accessTarget a s = .ok r) (hk : a.kind = .read)
    (hr : readReg r s = .error e) : hostAccess a s = refuseAccess a e s := by
  simp only [hostAccess, ht, hk, hr]

theorem hostAccess_of_writeReg_ok {t : State} (ht : accessTarget a s = .ok r) (hk : a.kind = .write)
    (hw : writeReg r a.v s = .ok t) : hostAccess a s = t := by
  simp only [hostAccess, ht, hk, hw]

theorem hostAccess_of_writeReg_error (ht : accessTarget a s = .ok r) (hk : a.kind = .write)
    (hw : writeReg r a.v s = .error e) : hostAccess a s = refuseAccess a e s := by
  simp only [hostAccess, ht, hk, hw]

/-! ### Accesses refused with ACCESS (R46 to R48) -/

/-- R46: size and alignment are checked first, whatever the offset and the kind. -/
theorem accessTarget_of_size_or_alignment (h : a.size ≠ 4 ∨ a.off.toNat % 4 ≠ 0) : accessTarget a s = .error .access :=
  if_pos h

/-- R47: no register stands at the offset. -/
theorem accessTarget_of_no_register (h : regAt a.off = none) : accessTarget a s = .error .access := by
  unfold accessTarget
  split
  · rfl
  · rw [h]

/-- R48: the checks stop a write to a read-only register before the BUSY guard. -/
theorem hostAccess_writeAt_readOnly (hro : readOnly r = true) (v : Word) :
    hostAccess (writeAt (regOffset r) v) s = refusedState .write 0x04 s := by
  rw [hostAccess_writeAt, if_pos hro]

theorem hostAccess_of_accessTarget_access (ht : accessTarget a s = .error .access) :
    hostAccess a s = refusedState a.kind 0x04 s :=
  (hostAccess_of_accessTarget_error ht).trans (refuseAccess_eq a .access s)

end

/-- Settles O43: the first check refuses size and alignment, the second 0x3C, the third the read-only registers. -/
theorem forbiddenAccessesAreRefused : Obligations.ForbiddenAccessesAreRefused := by
  intro a s
  refine ⟨fun h => ?_, fun _ hoff => ?_, fun hsize hkind hoff => ?_⟩
  · exact hostAccess_of_accessTarget_access (accessTarget_of_size_or_alignment h)
  · exact hostAccess_of_accessTarget_access (accessTarget_of_no_register (hoff ▸ rfl))
  · have ha : a = writeAt a.off a.v := by rw [writeAt, ← hsize, ← hkind]
    rw [ha]
    simp only [List.mem_cons, List.not_mem_nil, or_false] at hoff
    rcases hoff with hid | hcfgDim | hcfgMisc | hbmpCap
    · exact hid ▸ hostAccess_writeAt_readOnly (r := .id) rfl a.v
    · exact hcfgDim ▸ hostAccess_writeAt_readOnly (r := .cfgDim) rfl a.v
    · exact hcfgMisc ▸ hostAccess_writeAt_readOnly (r := .cfgMisc) rfl a.v
    · exact hbmpCap ▸ hostAccess_writeAt_readOnly (r := .bmpCap) rfl a.v

/-! ### Refused, or a read, or a write without a host error (R43, R56) -/

/-- A write that takes effect returns nothing to the Host and records no host error: only a STATUS write and a soft reset
touch HOST_ERRCODE, and both can only clear it. -/
theorem writeReg_ok_reads_hostErrCode {s t : State} {r : Reg} {v : Word} (hw : writeReg r v s = .ok t) :
    t.reads = s.reads ∧ (t.status.hostErrCode = s.status.hostErrCode ∨ t.status.hostErrCode = 0) := by
  cases r with
  | id | cfgDim | cfgMisc | bmpCap => cases hw
  | ctrl =>
    cases hw
    cases hv : v.getLsbD 2 with
    | false =>
      rw [writeCtrl_of_clear hv]
      exact ⟨rfl, .inl rfl⟩
    | true =>
      rw [writeCtrl_of_set hv]
      exact ⟨rfl, .inr rfl⟩
  | status =>
    cases hw
    refine ⟨rfl, ?_⟩
    rw [writeStatus_status, statusW1C_hostErrCode]
    split
    · exact .inr rfl
    · exact .inl rfl
  | cmd | cellAddr | bmpAddr =>
    cases hw
    exact ⟨rfl, .inl rfl⟩
  | slotSel | slotRows | slotCols | cellData | bmpLen | bmpData =>
    simp only [writeReg, writeSlotSel, writeSlotRows, writeSlotCols, writeCellData, writeBmpLen, writeBmpData] at hw
    split at hw <;> cases hw
    exact ⟨rfl, .inl rfl⟩

/-- R43, R113: HOST_ERR is no part of the interrupt condition. -/
theorem irq_refusedState (k : AccessKind) (code : BitVec 8) (s : State) : irq (refusedState k code s) = irq s := rfl

/-- Settles O44: the three outcomes are those of `hostAccess_cases`. -/
theorem accessesAreRefusedOrTakeEffect : Obligations.AccessesAreRefusedOrTakeEffect := by
  intro a s
  refine ⟨?_, fun k code => irq_refusedState k code s⟩
  rcases hostAccess_cases a s with ⟨e, heq⟩ | ⟨r, v, hread, -, -, heq⟩ | ⟨r, t, hwrite, -, hw, heq⟩
  · obtain ⟨one_le, le_four⟩ := hostErrorCode_range e
    exact .inl ⟨hostErrorCode e, one_le, le_four, heq.trans (refuseAccess_eq a e s)⟩
  · exact .inr (.inl ⟨hread, v, heq⟩)
  · rw [heq]
    exact .inr (.inr ⟨hwrite, writeReg_ok_reads_hostErrCode hw⟩)

/-! ### What a pending command reads and writes (R62, R125) -/

/-- The part of a state that a pending command reads or writes, and BUSY. -/
structure CommandView where
  pendWord : Word
  pendStride : Bool
  slots : List Mat
  bmp : Memory
  bmpDraw : Nat
  bmpLen : Word
  params : Params
  busy : Bool

/-- The view that a state gives to a pending command. -/
def commandView (s : State) : CommandView :=
  { pendWord := s.pendWord
    pendStride := s.pendStride
    slots := s.slots
    bmp := s.bmp
    bmpDraw := s.bmpDraw
    bmpLen := s.bmpLen
    params := s.params
    busy := s.status.busy }

theorem commandView_refuseAccess (a : Access) (e : HostError) (s : State) :
    commandView (refuseAccess a e s) = commandView s := by
  rw [refuseAccess_eq]
  rfl

/-- R125: a write that the BUSY guard lets through, soft reset aside, goes to a register that no command reads. -/
theorem commandView_writeReg {s t : State} {r : Reg} {v : Word} (hg : guarded .write r = false)
    (hreset : r = .ctrl → v.getLsbD 2 = false) (hw : writeReg r v s = .ok t) : commandView t = commandView s := by
  cases r with
  | id | cfgDim | cfgMisc | bmpCap => cases hw
  | cmd | slotRows | slotCols | cellData | bmpLen | bmpData => cases hg
  | ctrl =>
    cases hw
    rw [writeCtrl_of_clear (hreset rfl)]
    rfl
  | slotSel =>
    simp only [writeReg, writeSlotSel] at hw
    split at hw <;> cases hw
    rfl
  | status | cellAddr | bmpAddr =>
    cases hw
    rfl

theorem commandView_hostAccess {a : Access} {s : State} (hb : s.status.busy = true) (ha : ¬isSoftReset a) :
    commandView (hostAccess a s) = commandView s := by
  rcases hostAccess_cases a s with ⟨e, heq⟩ | ⟨r, v, -, -, -, heq⟩ | ⟨r, t, hwrite, htarget, hw, heq⟩ <;> rw [heq]
  · exact commandView_refuseAccess a e s
  · rfl
  · obtain ⟨hsize, -, hreg, -, hguard⟩ := accessTarget_ok htarget
    refine commandView_writeReg (hwrite ▸ hguard hb) (fun hctrl => ?_) hw
    subst hctrl
    exact Bool.eq_false_iff.mpr fun hv => ha ⟨hwrite, hsize, regAt_some hreg, hv⟩

/-- Settles O55: the view is kept whole, and every claim is about one of its fields. -/
theorem hostCannotDisturbPendingCommand : Obligations.HostCannotDisturbPendingCommand := by
  intro a s hb ha
  have hview := commandView_hostAccess hb ha
  have hbytes := bmpRead_congr (congrArg CommandView.bmp hview) (congrArg CommandView.bmpDraw hview)
  exact ⟨congrArg CommandView.pendWord hview, congrArg CommandView.pendStride hview, congrArg CommandView.slots hview,
    hbytes, congrArg CommandView.bmpLen hview, congrArg CommandView.params hview,
    (congrArg CommandView.busy hview).trans hb⟩

/-! ### What the Host cannot see while a command is pending (R60, R125) -/

/-- `s'` is `s` but for the contents of the slots and of the bitmap buffer. -/
def EqButContents (s s' : State) : Prop :=
  ∃ slots bmp bmpDraw, s' = { s with slots := slots, bmp := bmp, bmpDraw := bmpDraw }

section
variable {s s' : State}

theorem EqButContents.status_eq (h : EqButContents s s') : s'.status = s.status := by
  obtain ⟨_, _, _, rfl⟩ := h
  rfl

theorem EqButContents.returnToHost (h : EqButContents s s') (v : Word) :
    EqButContents (returnToHost v s) (returnToHost v s') := by
  obtain ⟨slots, bmp, bmpDraw, rfl⟩ := h
  exact ⟨slots, bmp, bmpDraw, rfl⟩

theorem EqButContents.refuseAccess (h : EqButContents s s') (a : Access) (e : HostError) :
    EqButContents (refuseAccess a e s) (refuseAccess a e s') := by
  obtain ⟨slots, bmp, bmpDraw, rfl⟩ := h
  rw [refuseAccess_eq, refuseAccess_eq]
  exact ⟨slots, bmp, bmpDraw, rfl⟩

/-- The checks 1 to 4 of R45 look at the access and at BUSY alone. -/
theorem accessTarget_congr (hst : s'.status = s.status) (a : Access) : accessTarget a s' = accessTarget a s := by
  simp only [accessTarget, hst]

/-- R125: a read that the BUSY guard lets through returns no dimension, cell or byte. -/
theorem EqButContents.readReg_eq (h : EqButContents s s') {r : Reg} (hg : guarded .read r = false) :
    readReg r s' = readReg r s := by
  obtain ⟨_, _, _, rfl⟩ := h
  cases r with
  | slotRows | slotCols | cellData | bmpData => cases hg
  | id | cfgDim | cfgMisc | bmpCap | ctrl | status | cmd | slotSel | cellAddr | bmpLen | bmpAddr => rfl

/-- R125: a write that the BUSY guard lets through meets the same check in both states, and either ends in states that
again differ only in the contents, or is refused in both. -/
theorem EqButContents.writeReg_cases (h : EqButContents s s') {r : Reg} (hg : guarded .write r = false) (v : Word) :
    (∃ e, writeReg r v s = .error e ∧ writeReg r v s' = .error e) ∨
    (∃ t t', writeReg r v s = .ok t ∧ writeReg r v s' = .ok t' ∧ EqButContents t t') := by
  obtain ⟨slots, bmp, bmpDraw, rfl⟩ := h
  cases r with
  | cmd | slotRows | slotCols | cellData | bmpLen | bmpData => cases hg
  | id | cfgDim | cfgMisc | bmpCap => exact .inl ⟨.access, rfl, rfl⟩
  | ctrl =>
    refine .inr ⟨_, _, rfl, rfl, ?_⟩
    cases hv : v.getLsbD 2 with
    | false =>
      rw [writeCtrl_of_clear hv, writeCtrl_of_clear hv]
      exact ⟨slots, bmp, bmpDraw, rfl⟩
    | true =>
      rw [writeCtrl_of_set hv, writeCtrl_of_set hv]
      exact ⟨(softReset s).slots, bmp, bmpDraw, rfl⟩
  | slotSel =>
    rcases Nat.lt_or_ge v.toNat s.params.numSlots with hv | hv
    · exact .inr ⟨_, _, writeSlotSel_of_lt hv, writeSlotSel_of_lt hv, slots, bmp, bmpDraw, rfl⟩
    · exact .inl ⟨.value, writeSlotSel_of_le hv, writeSlotSel_of_le hv⟩
  | status | cellAddr | bmpAddr => exact .inr ⟨_, _, rfl, rfl, slots, bmp, bmpDraw, rfl⟩

/-- While a command is pending, no access tells the two states apart. -/
theorem EqButContents.hostAccess (h : EqButContents s s') (hb : s.status.busy = true) (a : Access) :
    EqButContents (hostAccess a s) (hostAccess a s') := by
  have htargets := accessTarget_congr h.status_eq a
  cases ht : accessTarget a s with
  | error e =>
    rw [hostAccess_of_accessTarget_error ht, hostAccess_of_accessTarget_error (htargets.trans ht)]
    exact h.refuseAccess a e
  | ok r =>
    have ht' := htargets.trans ht
    obtain ⟨-, -, -, -, hguard⟩ := accessTarget_ok ht
    cases hk : a.kind with
    | read =>
      have hreads := h.readReg_eq (hk ▸ hguard hb)
      cases hr : readReg r s with
      | error e =>
        rw [hostAccess_of_readReg_error ht hk hr, hostAccess_of_readReg_error ht' hk (hreads.trans hr)]
        exact h.refuseAccess a e
      | ok v =>
        rw [hostAccess_of_readReg_ok ht hk hr, hostAccess_of_readReg_ok ht' hk (hreads.trans hr)]
        exact h.returnToHost v
    | write =>
      rcases h.writeReg_cases (hk ▸ hguard hb) a.v with ⟨e, hw, hw'⟩ | ⟨t, t', hw, hw', htt'⟩
      · rw [hostAccess_of_writeReg_error ht hk hw, hostAccess_of_writeReg_error ht' hk hw']
        exact h.refuseAccess a e
      · rwa [hostAccess_of_writeReg_ok ht hk hw, hostAccess_of_writeReg_ok ht' hk hw']

end

/-- Settles O56: reads, STATUS, IRQ and the rest of the state are all outside the contents. -/
theorem hostSeesNoSlotOrByteWhileBusy : Obligations.HostSeesNoSlotOrByteWhileBusy := by
  intro a s s' hb heq
  have h : EqButContents s s' := ⟨s'.slots, s'.bmp, s'.bmpDraw, heq⟩
  obtain ⟨slots, bmp, bmpDraw, hafter⟩ := h.hostAccess hb a
  rw [hafter]
  exact ⟨rfl, rfl, rfl, rfl⟩

/-! ### Turns other than a pending command's (R41, R59, R72, R122) -/

section
variable {s : State}

/-- R41: an access in the window is the access of the block at bits 5:0 of the address. -/
theorem busAccess_inside {a : BusAccess} (hlo : s.params.base ≤ a.addr) (hhi : a.addr < s.params.base + 0x40) :
    busAccess a s = hostAccess (blockAccess a) s :=
  if_pos ((routedToBlock_iff _ _).mpr ⟨hlo, hhi⟩)

/-- An access outside the window is no access of the block (log entry 8). -/
theorem busAccess_outside {a : BusAccess} (h : ¬(s.params.base ≤ a.addr ∧ a.addr < s.params.base + 0x40)) :
    busAccess a s = s :=
  if_neg fun hrouted => h ((routedToBlock_iff _ _).mp hrouted)

/-- R59: a listed Host access is one step. -/
theorem step_host {a : BusAccess} {rest : List Turn} (h : s.turns = .host a :: rest) :
    step s = .next (busAccess a { s with turns := rest }) :=
  step_cons h

/-- R72: an access of a Host program is one step, at the register's offset. -/
theorem step_host_regAddress {k : AccessKind} {r : Reg} {v : Word} {rest : List Turn} (hbase : s.params.base % 0x40 = 0)
    (h : s.turns = .host { kind := k, addr := regAddress s.params.base r, size := 4, v := v } :: rest) :
    step s = .next (hostAccess { kind := k, off := regOffset r, size := 4, v := v } { s with turns := rest }) :=
  (step_host h).trans (congrArg _ (busAccess_regAddress (s := { s with turns := rest }) hbase k r 4 v))

end

/-- Settles O7: the first listed turn decides the step, and an idle Engine's turn changes nothing. -/
theorem stepTakesEveryOtherTurn : Obligations.StepTakesEveryOtherTurn := by
  intro s
  refine ⟨fun hb hturns => ?_, fun rest hb hturns => ?_, fun a rest hturns hlo hhi => ?_, fun a rest hturns hout => ?_,
    fun r v rest hbase hturns => ?_, fun r rest hbase hturns => ?_, fun rest hturns => ?_⟩
  · exact (step_nil hturns).trans (engineTurn_idle hb)
  · exact (step_cons hturns).trans (engineTurn_idle (s := { s with turns := rest }) hb)
  · exact (step_host hturns).trans (congrArg _ (busAccess_inside (s := { s with turns := rest }) hlo hhi))
  · exact (step_host hturns).trans (congrArg _ (busAccess_outside (s := { s with turns := rest }) hout))
  · exact step_host_regAddress hbase hturns
  · exact step_host_regAddress hbase hturns
  · exact step_cons hturns

/-! ### Header fields (R53) -/

/-- Settles O33: the concatenation counts each byte in its weight, and the sign is that of bit 31. -/
theorem headerFieldIsLittleEndianSigned : Obligations.HeaderFieldIsLittleEndianSigned := by
  intro s addr
  rw [le32, BitVec.toInt_eq_toNat_cond]
  simp only [toNat_append_add]
  split <;> split <;> omega

end Sys2Proof.Machine

/-! What the decoder and the encoder say of a word's five fields (30_encoding.md R64, R66): every command has an opcode,
fields that it reads as operands, and fields that have to be 0. -/

namespace Sys2Proof

/-! ### Words as their five fields -/

/-- R64: a word is determined by its fields. -/
theorem word_eq_iff_fields (v w : Word) :
    v = w ↔ zField v = zField w ∧ opcField v = opcField w ∧ dField v = dField w ∧ aField v = aField w ∧
      bField v = bField w := by
  refine ⟨fun h => by simp [h], fun ⟨hz, hopc, hd, ha, hb⟩ => ?_⟩
  rw [← word_eq_fields v, ← word_eq_fields w, hz, hopc, hd, ha, hb]

/-- A mask acts on each field alone. -/
theorem and_eq_iff_fields (w mask m : Word) :
    w &&& mask = m ↔ zField w &&& zField mask = zField m ∧ opcField w &&& opcField mask = opcField m ∧
      dField w &&& dField mask = dField m ∧ aField w &&& aField mask = aField m ∧
      bField w &&& bField mask = bField m := by
  rw [word_eq_iff_fields]
  simp only [zField, opcField, dField, aField, bField, BitVec.extractLsb'_and]

/-! ### A command's use of the fields (R66) -/

/-- The command with the mnemonic of `i` whose operands stand in the fields of `w`. -/
def Instr.readOperands (i : Instr) (w : Word) : Instr :=
  match i with
  | .nop => .nop
  | .conv _ _ _ => .conv (dField w) (aField w) (bField w)
  | .sum _ _ _ => .sum (dField w) (aField w) (bField w)
  | .sqr _ _ => .sqr (dField w) (aField w)
  | .isqrt _ _ => .isqrt (dField w) (aField w)
  | .revr _ _ => .revr (dField w) (aField w)
  | .decode _ => .decode (dField w)
  | .ldk _ _ => .ldk (dField w) (aField w)
  | .sobel _ _ => .sobel (dField w) (aField w)
  | .hough _ _ => .hough (dField w) (aField w)

/-- The command has an operand in field D (R66). -/
def Instr.usesD : Instr → Bool
  | .nop => false
  | .conv _ _ _ | .sum _ _ _ | .sqr _ _ | .isqrt _ _ | .revr _ _ => true
  | .decode _ | .ldk _ _ | .sobel _ _ | .hough _ _ => true

/-- The command has an operand in field A (R66). -/
def Instr.usesA : Instr → Bool
  | .nop | .decode _ => false
  | .conv _ _ _ | .sum _ _ _ | .sqr _ _ | .isqrt _ _ | .revr _ _ => true
  | .ldk _ _ | .sobel _ _ | .hough _ _ => true

/-- The command has an operand in field B (R66). -/
def Instr.usesB : Instr → Bool
  | .conv _ _ _ | .sum _ _ _ => true
  | .nop | .sqr _ _ | .isqrt _ _ | .revr _ _ => false
  | .decode _ | .ldk _ _ | .sobel _ _ | .hough _ _ => false

/-- The fields D, A and B that the command does not use are 0 in `w` (R68 item 3). -/
def Instr.unusedZero (i : Instr) (w : Word) : Bool :=
  (i.usesD || dField w == 0) && (i.usesA || aField w == 0) && (i.usesB || bField w == 0)

theorem unusedZero_iff (i : Instr) (w : Word) :
    i.unusedZero w = true ↔
      (i.usesD = true ∨ dField w = 0) ∧ (i.usesA = true ∨ aField w = 0) ∧ (i.usesB = true ∨ bField w = 0) := by
  simp only [Instr.unusedZero, Bool.and_eq_true, Bool.or_eq_true, beq_iff_eq, and_assoc]

@[simp] theorem opcode_readOperands (i : Instr) (w : Word) : opcode (i.readOperands w) = opcode i := by
  cases i <;> rfl

@[simp] theorem unusedZero_readOperands (i : Instr) (v w : Word) :
    (i.readOperands v).unusedZero w = i.unusedZero w := by
  cases i <;> rfl

@[simp] theorem readOperands_readOperands (i : Instr) (v w : Word) :
    (i.readOperands v).readOperands w = i.readOperands w := by
  cases i <;> rfl

theorem opcode_lt (i : Instr) : (opcode i).toNat < 0x0A := by
  cases i <;> simp [opcode]

/-- R66: the opcodes below 0x0A are those of the ten commands. -/
theorem exists_opcode_eq {opc : BitVec 8} (h : opc.toNat < 0x0A) : ∃ i, opcode i = opc := by
  rw [show opc = BitVec.ofNat 8 opc.toNat by simp]
  interval_cases opc.toNat
  · exact ⟨.nop, rfl⟩
  · exact ⟨.conv 0 0 0, rfl⟩
  · exact ⟨.sum 0 0 0, rfl⟩
  · exact ⟨.sqr 0 0, rfl⟩
  · exact ⟨.isqrt 0 0, rfl⟩
  · exact ⟨.revr 0 0, rfl⟩
  · exact ⟨.decode 0, rfl⟩
  · exact ⟨.ldk 0 0, rfl⟩
  · exact ⟨.sobel 0 0, rfl⟩
  · exact ⟨.hough 0 0, rfl⟩

/-! ### The decoder (R69) -/

theorem whenUnused_eq_command_iff {zero : Bool} {i j : Instr} :
    whenUnused zero j = .command i ↔ zero = true ∧ j = i := by
  cases zero <;> simp [whenUnused]

theorem exists_whenUnused_eq_illegal_iff {zero : Bool} {i : Instr} :
    (∃ why, whenUnused zero i = .illegal why) ↔ zero = false := by
  cases zero <;> simp [whenUnused]

theorem decode_of_reservedBits {w : Word} (hz : zField w ≠ 0) : decode w = .illegal .reservedBits :=
  if_neg hz

theorem decode_of_reservedOpcode {w : Word} (hz : zField w = 0) (hopc : 0x0A ≤ (opcField w).toNat) :
    decode w = .illegal .reservedOpcode := by
  rw [decode, if_pos hz, decodeOpcode]
  split
  case h_11 => rfl
  all_goals omega

/-- The decoder on the opcode of a command: the operands are read from their fields where the unused ones are 0. -/
theorem decode_of_opcode {w : Word} {i : Instr} (hz : zField w = 0) (hopc : opcField w = opcode i) :
    decode w = whenUnused (i.unusedZero w) (i.readOperands w) := by
  rw [decode, if_pos hz, hopc]
  cases i <;> rfl

/-- The three ways to decode a word, by its reserved bits and its opcode (R68). -/
theorem decode_cases (w : Word) :
    zField w ≠ 0 ∨ (zField w = 0 ∧ 0x0A ≤ (opcField w).toNat) ∨ (zField w = 0 ∧ ∃ i, opcField w = opcode i) := by
  by_cases hz : zField w = 0
  · rcases Nat.lt_or_ge (opcField w).toNat 0x0A with hlt | hge
    · obtain ⟨i, hi⟩ := exists_opcode_eq hlt
      exact .inr (.inr ⟨hz, i, hi.symm⟩)
    · exact .inr (.inl ⟨hz, hge⟩)
  · exact .inl hz

/-- R68, R69: what a word has to hold in its fields to spell a command. -/
theorem decode_eq_command_iff {w : Word} {i : Instr} :
    decode w = .command i ↔
      zField w = 0 ∧ opcField w = opcode i ∧ i.unusedZero w = true ∧ i.readOperands w = i := by
  constructor
  · intro h
    rcases decode_cases w with hz | ⟨hz, hopc⟩ | ⟨hz, j, hopc⟩
    · simp [decode_of_reservedBits hz] at h
    · simp [decode_of_reservedOpcode hz hopc] at h
    · rw [decode_of_opcode hz hopc, whenUnused_eq_command_iff] at h
      obtain ⟨hunused, rfl⟩ := h
      simp [hz, hopc, hunused]
  · rintro ⟨hz, hopc, hunused, hread⟩
    rw [decode_of_opcode hz hopc, whenUnused_eq_command_iff]
    exact ⟨hunused, hread⟩

/-- The encoder writes the operands to their fields and 0 to every other (R64, R66). -/
theorem encode_eq_iff {w : Word} {i : Instr} :
    encode i = w ↔ zField w = 0 ∧ opcField w = opcode i ∧ i.unusedZero w = true ∧ i.readOperands w = i := by
  constructor
  · rintro rfl
    cases i <;> simp [encode, unusedZero_iff, Instr.usesD, Instr.usesA, Instr.usesB, Instr.readOperands]
  · rintro ⟨hz, hopc, hunused, hread⟩
    rw [← hread, word_eq_iff_fields]
    cases i <;> simp_all [encode, unusedZero_iff, Instr.usesD, Instr.usesA, Instr.usesB, Instr.readOperands]

/-- Settles O1: the decoder and the encoder ask the same of the fields of a word. -/
theorem decodeAgreesWithEncode : Obligations.DecodeAgreesWithEncode := by
  intro w i
  rw [decode_eq_command_iff, encode_eq_iff]

/-- R69: no command is lost in its encoding. -/
theorem decode_encode (i : Instr) : decode (encode i) = .command i :=
  (decodeAgreesWithEncode _ _).mpr rfl

/-! ### Mask and match (R67) -/

theorem zField_maskWord (i : Instr) : zField (maskWord i) = BitVec.allOnes 12 := by
  cases i <;> simp only [maskWord] <;> rfl

theorem opcField_maskWord (i : Instr) : opcField (maskWord i) = BitVec.allOnes 8 := by
  cases i <;> simp only [maskWord] <;> rfl

theorem zField_matchWord (i : Instr) : zField (matchWord i) = 0 := by
  cases i <;> simp only [matchWord] <;> rfl

theorem opcField_matchWord (i : Instr) : opcField (matchWord i) = opcode i := by
  cases i <;> simp only [matchWord, opcode] <;> rfl

/-- What a mask holds in an operand field: ones exactly where the field is not used. -/
def nibbleMask (used : Bool) : BitVec 4 :=
  if used then 0 else BitVec.allOnes 4

theorem and_nibbleMask_eq_zero_iff (x : BitVec 4) (used : Bool) :
    x &&& nibbleMask used = 0 ↔ used = true ∨ x = 0 := by
  cases used with
  | false => simp only [nibbleMask, Bool.false_eq_true, if_false, BitVec.and_allOnes, false_or]
  | true => simp [nibbleMask]

theorem dField_maskWord (i : Instr) : dField (maskWord i) = nibbleMask i.usesD := by
  cases i <;> simp only [maskWord] <;> rfl

theorem aField_maskWord (i : Instr) : aField (maskWord i) = nibbleMask i.usesA := by
  cases i <;> simp only [maskWord] <;> rfl

theorem bField_maskWord (i : Instr) : bField (maskWord i) = nibbleMask i.usesB := by
  cases i <;> simp only [maskWord] <;> rfl

theorem dField_matchWord (i : Instr) : dField (matchWord i) = 0 := by
  cases i <;> simp only [matchWord] <;> rfl

theorem aField_matchWord (i : Instr) : aField (matchWord i) = 0 := by
  cases i <;> simp only [matchWord] <;> rfl

theorem bField_matchWord (i : Instr) : bField (matchWord i) = 0 := by
  cases i <;> simp only [matchWord] <;> rfl

/-- R67 in terms of the fields: the mask selects OPC, Z and the unused fields, and the match word fixes them. -/
theorem and_maskWord_eq_matchWord_iff {w : Word} {i : Instr} :
    w &&& maskWord i = matchWord i ↔ zField w = 0 ∧ opcField w = opcode i ∧ i.unusedZero w = true := by
  rw [and_eq_iff_fields, zField_maskWord, zField_matchWord, opcField_maskWord, opcField_matchWord, dField_maskWord,
    dField_matchWord, aField_maskWord, aField_matchWord, bField_maskWord, bField_matchWord, BitVec.and_allOnes,
    BitVec.and_allOnes]
  simp only [and_nibbleMask_eq_zero_iff, unusedZero_iff]

/-- R67: a word spells the mnemonic of `i`, with its own operands, exactly when it meets the row of `i`. -/
theorem and_maskWord_eq_matchWord_iff_decode {w : Word} {i : Instr} :
    w &&& maskWord i = matchWord i ↔ decode w = .command (i.readOperands w) := by
  simp only [and_maskWord_eq_matchWord_iff, decode_eq_command_iff, opcode_readOperands, unusedZero_readOperands,
    readOperands_readOperands, and_true]

/-- Settles O2: each row is the one of its mnemonic, and the row fixes the operation code. -/
theorem wordSpellsMnemonicByMaskAndMatch : Obligations.WordSpellsMnemonicByMaskAndMatch := by
  have row (i : Instr) (w : Word) := and_maskWord_eq_matchWord_iff_decode (w := w) (i := i)
  refine ⟨fun w => ⟨row .nop w, row (.conv 0 0 0) w, row (.sum 0 0 0) w, row (.sqr 0 0) w, row (.isqrt 0 0) w,
    row (.revr 0 0) w, row (.decode 0) w, row (.ldk 0 0) w, row (.sobel 0 0) w, row (.hough 0 0) w⟩, fun i => ?_,
    fun w i j hi hj => ?_⟩
  · obtain ⟨hz, hopc, hunused, -⟩ := (encode_eq_iff (w := encode i)).mp rfl
    exact and_maskWord_eq_matchWord_iff.mpr ⟨hz, hopc, hunused⟩
  · obtain ⟨-, hopci, -⟩ := and_maskWord_eq_matchWord_iff.mp hi
    obtain ⟨-, hopcj, -⟩ := and_maskWord_eq_matchWord_iff.mp hj
    exact hopci.symm.trans hopcj

/-! ### Illegal words (R68) -/

theorem usesD_iff (i : Instr) : i.usesD = true ↔ (opcode i).toNat ≠ 0 := by
  cases i <;> simp [Instr.usesD, opcode]

theorem usesA_iff (i : Instr) : i.usesA = true ↔ (opcode i).toNat ≠ 0 ∧ (opcode i).toNat ≠ 6 := by
  cases i <;> simp [Instr.usesA, opcode]

theorem usesB_iff (i : Instr) : i.usesB = true ↔ (opcode i).toNat = 1 ∨ (opcode i).toNat = 2 := by
  cases i <;> simp [Instr.usesB, opcode]

/-- R68: the three reasons, the third one field by field. -/
theorem exists_decode_eq_illegal_iff (w : Word) :
    (∃ why, decode w = .illegal why) ↔ 0x0A ≤ (opcField w).toNat ∨ zField w ≠ 0 ∨
      (bField w ≠ 0 ∧ (opcField w).toNat ≠ 1 ∧ (opcField w).toNat ≠ 2) ∨
      (aField w ≠ 0 ∧ ((opcField w).toNat = 0 ∨ (opcField w).toNat = 6)) ∨
      (dField w ≠ 0 ∧ (opcField w).toNat = 0) := by
  rcases decode_cases w with hz | ⟨hz, hopc⟩ | ⟨hz, i, hopc⟩
  · exact iff_of_true ⟨_, decode_of_reservedBits hz⟩ (.inr (.inl hz))
  · exact iff_of_true ⟨_, decode_of_reservedOpcode hz hopc⟩ (.inl hopc)
  · have hlegal : ¬0x0A ≤ (opcode i).toNat := Nat.not_le.mpr (opcode_lt i)
    rw [decode_of_opcode hz hopc, exists_whenUnused_eq_illegal_iff, ← Bool.not_eq_true, unusedZero_iff, usesD_iff,
      usesA_iff, usesB_iff, hopc]
    tauto

end Sys2Proof

/-! What becomes of a command word, legal or not: the CMD write, the Engine's turn, and the assembler forms of R71. -/

namespace Sys2Proof.Machine

/-- R74: the block accepts any word while no command is pending. -/
theorem hostAccess_writeCmd_idle {s : State} (hb : s.status.busy = false) (w : Word) :
    hostAccess (writeAt 0x18 w) s = acceptCommand w s :=
  hostAccess_writeAt_ok (r := .cmd) rfl (guard_of_idle hb _ _) rfl

/-! ### The Engine's turn on a pending word (R68, R75, R80) -/

theorem engineTurn_command {s : State} {i : Instr} (hb : s.status.busy = true) (hd : decode s.pendWord = .command i) :
    engineTurn s = exec i s :=
  (engineTurn_busy hb).trans (runPending_command hd)

theorem engineTurn_illegal {s : State} {why : IllegalWord} (hb : s.status.busy = true)
    (hd : decode s.pendWord = .illegal why) : engineTurn s = .next (errState 0x01 s) :=
  (engineTurn_busy hb).trans (runPending_illegal hd)

/-- Settles O3: the decoder's reasons, the accepted CMD write, and the Engine's turn on an illegal word. -/
theorem illegalWordsEndWithIllegalOpcode : Obligations.IllegalWordsEndWithIllegalOpcode := by
  refine ⟨exists_decode_eq_illegal_iff, fun w s hb => ?_, fun s why hb hd => engineTurn_illegal hb hd⟩
  rw [hostAccess_writeCmd_idle hb]
  exact ⟨rfl, rfl⟩

/-- Settles O6: where no turn is listed and where the Engine's is listed first, the step is the Engine's turn. -/
theorem stepRunsDecodedCommand : Obligations.StepRunsDecodedCommand := by
  intro s hb
  refine ⟨fun i hd => ⟨fun hturns => ?_, fun rest hturns => ?_⟩, fun why hd => ⟨fun hturns => ?_, fun rest hturns => ?_⟩⟩
  · exact (step_nil hturns).trans (engineTurn_command hb hd)
  · exact (step_cons hturns).trans (engineTurn_command (s := { s with turns := rest }) hb hd)
  · exact (step_nil hturns).trans (engineTurn_illegal hb hd)
  · exact (step_cons hturns).trans (engineTurn_illegal (s := { s with turns := rest }) hb hd)

/-! ### Assembler forms (R71) -/

theorem parseAsm_ldk (d k : BitVec 4) : parseAsm (asmLine (.ldk d k)) = some (.ldk d k) := by
  simp only [asmLine, romOperand]
  split
  case isTrue hk => simp [parseAsm, romIdOf, hk]
  case isFalse =>
    split
    case isTrue hk => simp [parseAsm, romIdOf, hk]
    case isFalse => simp [parseAsm, romIdOf]

theorem parseAsm_asmLine (i : Instr) : parseAsm (asmLine i) = some i := by
  cases i with
  | ldk d k => exact parseAsm_ldk d k
  | _ => simp [asmLine, parseAsm]

theorem assemble_asmLine (i : Instr) : assemble (asmLine i) = some (encode i) := by
  rw [assemble, parseAsm_asmLine, Option.map_some]

/-- Settles O5: LDK apart, whose kernel id has three ways to be written, each form names its mnemonic and its operands. -/
theorem assemblerFormParsesBack : Obligations.AssemblerFormParsesBack :=
  fun i => ⟨parseAsm_asmLine i, assemble_asmLine i⟩

/-- Settles O4: each sample word is the encoding of its command. -/
theorem sampleWordsDecode : Obligations.SampleWordsDecode :=
  ⟨decode_encode .nop, decode_encode (.conv 2 0 1), decode_encode (.conv 7 6 5), decode_encode (.sum 2 0 1),
    decode_encode (.decode 3), decode_encode (.ldk 3 1), decode_encode (.hough 1 0), assemble_asmLine (.conv 2 0 1)⟩

end Sys2Proof.Machine

/-! The command lifecycle (40_command_lifecycle.md): how every command ends, what it depends on, NOP, and the CMD write. -/

namespace Sys2Proof.Machine

/-! ### What a family rule answers (R76, R109, R111) -/

/-- The command errors that the family rule of each command raises (R111). -/
def familyErrors : Instr → List CmdError
  | .nop => []
  | .conv _ _ _ => [.kernelShape, .overflow]
  | .sum _ _ _ => [.dimMismatch, .overflow]
  | .sqr _ _ => [.overflow]
  | .isqrt _ _ => [.negSqrt]
  | .revr _ _ => []
  | .decode _ => [.malformedInput, .capacity]
  | .ldk _ _ => [.badRomId]
  | .sobel _ _ => [.overflow]
  | .hough _ _ => [.notImplemented]

/-- BAD_SLOT is raised before the family rule and never by it (R80, R81). -/
theorem badSlot_notMem_familyErrors (i : Instr) : .badSlot ∉ familyErrors i := by
  cases i <;> simp [familyErrors]

/-- A result that `i` may end with once its slot fields have passed the BAD_SLOT check: only NOP ends with `Ok(none)`,
and an error is one of the command's own. The slot that an `Ok(d, X)` names is the business of `CmdResult.WritesOnly`. -/
def CmdResult.Ends (i : Instr) : CmdResult → Prop
  | .okSlot _ _ => True
  | .okNone => i = .nop
  | .err e => e ∈ familyErrors i

/-- R89: a range check adds OVERFLOW to the ways a command may end. -/
theorem rangeChecked_ends {i : Instr} (hi : .overflow ∈ familyErrors i) (d : BitVec 4) (y : Mat) :
    (rangeChecked d y).Ends i := by
  unfold rangeChecked
  split
  · trivial
  · exact hi

theorem decodeResult_ends (d : BitVec 4) (s : State) : (decodeResult d s).Ends (.decode d) := by
  simp only [decodeResult]
  split_ifs
  · exact List.mem_cons_self
  · exact List.mem_cons_self
  · exact List.mem_cons_of_mem _ List.mem_cons_self
  · exact List.mem_cons_self
  · trivial

theorem sobelResult_ends (d a : BitVec 4) (x : Mat) : (sobelResult d x).Ends (.sobel d a) := by
  simp only [sobelResult]
  split_ifs
  · trivial
  · exact List.mem_cons_self
  · exact List.mem_cons_self
  · exact List.mem_cons_self
  · trivial

/-- Every family rule ends as its command may. -/
theorem familyResult_ends (i : Instr) (s : State) : (familyResult i s).Ends i := by
  cases i with
  | nop => rfl
  | conv d a b =>
    simp only [familyResult, convResult]
    split_ifs
    · trivial
    · exact List.mem_cons_self
    · exact rangeChecked_ends (List.mem_cons_of_mem _ List.mem_cons_self) d _
  | sum d a b =>
    simp only [familyResult, sumResult]
    split_ifs
    · exact List.mem_cons_self
    · exact rangeChecked_ends (List.mem_cons_of_mem _ List.mem_cons_self) d _
  | sqr d a => exact rangeChecked_ends List.mem_cons_self d _
  | isqrt d a =>
    simp only [familyResult, isqrtResult]
    split_ifs
    · trivial
    · exact List.mem_cons_self
  | revr d a => trivial
  | decode d => exact decodeResult_ends d s
  | ldk d k =>
    simp only [familyResult, ldkResult]
    split
    · trivial
    · exact List.mem_cons_self
  | sobel d a => exact sobelResult_ends d a _
  | hough d a => exact List.mem_cons_self

/-! ### How a command ends (R76, R81, R110) -/

/-- R83: no command but NOP ends with `Ok(none)`. -/
theorem eq_nop_of_withSlots_eq_okNone {i : Instr} {s : State}
    (h : withSlots s i.slotOperands (familyResult i s) = .okNone) : i = .nop := by
  have hends := familyResult_ends i s
  rcases withSlots_cases s i.slotOperands (familyResult i s) with hr | hr
  · rwa [← hr, h] at hends
  · cases h.symm.trans hr

/-- Settles O13: the three ways are the three results that completion distinguishes. -/
theorem commandCompletesInOneOfThreeWays : Obligations.CommandCompletesInOneOfThreeWays := by
  intro i s
  rw [exec_eq_complete]
  have hwrites := withSlots_writesOnly i s
  cases hr : withSlots s i.slotOperands (familyResult i s) with
  | okSlot d y =>
    rw [hr] at hwrites
    exact .inl ⟨d, y, hwrites, rfl⟩
  | okNone => exact .inr (.inl ⟨eq_nop_of_withSlots_eq_okNone hr, rfl⟩)
  | err e =>
    obtain ⟨one_le, le_ten⟩ := cmdErrorCode_range e
    exact .inr (.inr ⟨cmdErrorCode e, one_le, le_ten, rfl⟩)

/-- R76: where ERR was clear, only an error sets it. -/
theorem exists_err_of_complete_err {r : CmdResult} {s : State} (h0 : s.status.err = false)
    (h1 : (complete r s).status.err = true) : ∃ e, r = .err e := by
  cases r with
  | okSlot d x => exact absurd (h0.symm.trans h1) Bool.false_ne_true
  | okNone => exact absurd (h0.symm.trans h1) Bool.false_ne_true
  | err e => exact ⟨e, rfl⟩

theorem cmdErrorCode_eq_badSlot_iff {e : CmdError} : cmdErrorCode e = 0x02 ↔ e = .badSlot := by
  cases e <;> decide

/-- Settles O15: a bad slot field ends the command before its family rule, and no family rule raises BAD_SLOT. -/
theorem badSlotExactlyWhenAFieldNamesNoSlot : Obligations.BadSlotExactlyWhenAFieldNamesNoSlot := by
  intro i s
  refine ⟨fun hbad => ?_, fun hexist herr hexec => ?_, fun h16 f _ => h16 ▸ f.isLt⟩
  · rw [exec_eq_complete, withSlots_bad hbad]
    rfl
  · have heq := exec_next_iff.mp hexec
    rw [withSlots_ok hexist] at heq
    have hends := familyResult_ends i s
    obtain ⟨e, he⟩ := exists_err_of_complete_err (r := familyResult i s) herr (by rw [← heq]; rfl)
    rw [he] at heq hends
    have hcode : cmdErrorCode e = 0x02 := congrArg (fun t : State => t.status.errCode) heq.symm
    exact badSlot_notMem_familyErrors i (cmdErrorCode_eq_badSlot_iff.mp hcode ▸ hends)

/-! ### What a command depends on (R75, R78) -/

/-- The two states give a command the same arguments: the parameters, the slots, the bytes of the bitmap buffer, BMP_LEN
and PEND.stride (R75). -/
structure SameArguments (s s' : State) : Prop where
  params : s.params = s'.params
  slots : s.slots = s'.slots
  bytes : ∀ addr, bmpRead s addr = bmpRead s' addr
  bmpLen : s.bmpLen = s'.bmpLen
  pendStride : s.pendStride = s'.pendStride

section
variable {s s' : State}

theorem SameArguments.source_eq (h : SameArguments s s') (f : BitVec 4) : source s f = source s' f :=
  slotRead_congr h.slots f.toNat

theorem SameArguments.le32_eq (h : SameArguments s s') (addr : Nat) : le32 s addr = le32 s' addr := by
  simp only [le32, h.bytes]

theorem SameArguments.storedRows_eq (h : SameArguments s s') (width height stride : Nat) :
    storedRows s width height stride = storedRows s' width height stride := by
  simp only [storedRows, h.bytes]

theorem SameArguments.decodeResult_eq (h : SameArguments s s') (d : BitVec 4) :
    decodeResult d s = decodeResult d s' := by
  simp only [decodeResult, h.params, h.bmpLen, h.pendStride, h.le32_eq, h.storedRows_eq]

/-- R78: a family rule reads the arguments of R75 and nothing else. -/
theorem SameArguments.familyResult_eq (h : SameArguments s s') (i : Instr) : familyResult i s = familyResult i s' := by
  cases i with
  | nop | ldk d k | hough d a => rfl
  | conv d a b | sum d a b => simp only [familyResult, h.source_eq]
  | sqr d a | isqrt d a | revr d a | sobel d a => simp only [familyResult, h.source_eq]
  | decode d => exact h.decodeResult_eq d

theorem SameArguments.slotFieldBad_eq (h : SameArguments s s') (fields : List (BitVec 4)) :
    slotFieldBad s fields = slotFieldBad s' fields := by
  simp only [slotFieldBad, h.params]

theorem SameArguments.withSlots_eq (h : SameArguments s s') (i : Instr) :
    withSlots s i.slotOperands (familyResult i s) = withSlots s' i.slotOperands (familyResult i s') := by
  rw [withSlots, withSlots, h.slotFieldBad_eq, h.familyResult_eq]

/-- Completion changes the slots and STATUS by the result alone (R76). -/
theorem complete_congr (r : CmdResult) (hslots : s.slots = s'.slots) (hstatus : s.status = s'.status) :
    (complete r s).slots = (complete r s').slots ∧ (complete r s).status = (complete r s').status := by
  cases r with
  | okSlot d x => exact ⟨congrArg (List.set · d.toNat x) hslots, congrArg statusDone hstatus⟩
  | okNone => exact ⟨hslots, congrArg statusDone hstatus⟩
  | err e => exact ⟨hslots, congrArg (statusErr e) hstatus⟩

end

/-- Settles O17: the same arguments give the same result, and completion does the same with it. -/
theorem commandDependsOnlyOnItsArguments : Obligations.CommandDependsOnlyOnItsArguments := by
  intro i s s' t t' hparams hslots hbytes hlen hstride hstatus ht ht'
  have hargs : SameArguments s s' := ⟨hparams, hslots, hbytes, hlen, hstride⟩
  obtain rfl := exec_next_iff.mp ht
  obtain rfl := exec_next_iff.mp ht'
  rw [hargs.withSlots_eq i]
  exact complete_congr _ hslots hstatus

/-! ### NOP (R83) -/

theorem opcode_eq_zero_iff {i : Instr} : opcode i = 0 ↔ i = .nop := by
  cases i <;> simp [opcode]

theorem decode_eq_nop_iff (w : Word) : decode w = .command .nop ↔ w = 0 :=
  (decodeAgreesWithEncode w .nop).trans eq_comm

/-- R68, R83: with opcode 0, every word but 0 sets a bit that NOP does not use. -/
theorem exists_illegal_of_opcode_zero {w : Word} (hopc : opcField w = 0) (hw : w ≠ 0) :
    ∃ why, decode w = .illegal why := by
  cases hd : decode w with
  | command i =>
    obtain ⟨-, hi, -⟩ := decode_eq_command_iff.mp hd
    obtain rfl := opcode_eq_zero_iff.mp (hi.symm.trans hopc)
    exact absurd ((decode_eq_nop_iff w).mp hd) hw
  | illegal why => exact ⟨why, rfl⟩

/-- Settles O18: NOP reads no slot field and answers `Ok(none)`; the decoder refuses every other word of its opcode. -/
theorem nopCompletes : Obligations.NopCompletes := by
  refine ⟨fun s => ?_, decode_eq_nop_iff, fun s hopc hne hb => ?_⟩
  · rw [exec_eq_complete]
    rfl
  · obtain ⟨why, hd⟩ := exists_illegal_of_opcode_zero hopc hne
    exact engineTurn_illegal hb hd

/-! ### The CMD write (R74) -/

/-- R125: a guarded register's write is refused while a command is pending. -/
theorem hostAccess_writeAt_guarded_busy {r : Reg} {s : State} (hro : readOnly r = false)
    (hg : guarded .write r = true) (hb : s.status.busy = true) (v : Word) :
    hostAccess (writeAt (regOffset r) v) s = refusedState .write 0x01 s := by
  rw [hostAccess_writeAt, if_neg (Bool.eq_false_iff.mp hro), if_pos ⟨hb, hg⟩]

/-- Settles O48: CMD is guarded by BUSY, and any word is accepted while BUSY is 0. -/
theorem cmdWriteIssuesOneCommand : Obligations.CmdWriteIssuesOneCommand :=
  fun v _ => ⟨fun hb => hostAccess_writeCmd_idle hb v,
    fun hb => hostAccess_writeAt_guarded_busy (r := .cmd) rfl rfl hb v⟩

end Sys2Proof.Machine

/-! CONV (41_convolution.md): the model's sum over offsets is the sum of R88, whose terms are kernel cells times cells of
the zero-padded matrix; the properties of R91 come from there. -/

namespace Sys2Proof.Machine

/-! ### A command whose slots exist (R75, R80), and how an error is told from a success (R76, R109) -/

/-- Once every slot operand names an existing slot, the family rule alone decides. -/
theorem exec_of_slotsExist {i : Instr} {s : State} (h : SlotsExist i s) :
    exec i s = .next (complete (familyResult i s) s) := by
  rw [exec_eq_complete, withSlots_ok h]

/-- R76, R110: where ERR was clear, a state with ERR set and a code is reached by an error of that code only. -/
theorem exists_err_of_complete_eq_errState {r : CmdResult} {s : State} {code : BitVec 8} (h0 : s.status.err = false)
    (h : complete r s = errState code s) : ∃ e, r = .err e ∧ cmdErrorCode e = code := by
  obtain ⟨e, rfl⟩ := exists_err_of_complete_err (r := r) h0 (by rw [h]; rfl)
  exact ⟨e, rfl, congrArg (fun t : State => t.status.errCode) h⟩

/-! ### The range check of R89, for a matrix given cell by cell -/

section
variable {y : Mat} {r c : Nat} {f : Nat → Nat → Int}

theorem rangeChecked_of_inRange (hy : IsMatrix y r c f)
    (h : ∀ i j, i < r → j < c → -2147483648 ≤ f i j ∧ f i j ≤ 2147483647) (d : BitVec 4) :
    rangeChecked d y = .okSlot d y := by
  obtain ⟨-, rfl, rfl, hget⟩ := hy
  refine if_pos ((Mat.all_iff y inRange32).mpr fun i j hi hj => ?_)
  rw [hget i j hi hj, inRange32_iff]
  exact h i j hi hj

theorem rangeChecked_of_outOfRange (hy : IsMatrix y r c f)
    (h : ∃ i j, i < r ∧ j < c ∧ ¬(-2147483648 ≤ f i j ∧ f i j ≤ 2147483647)) (d : BitVec 4) :
    rangeChecked d y = .err .overflow := by
  obtain ⟨-, rfl, rfl, hget⟩ := hy
  obtain ⟨i, j, hi, hj, hout⟩ := h
  refine if_neg fun hall => hout ?_
  rw [← hget i j hi hj, ← inRange32_iff]
  exact (Mat.all_iff y inRange32).mp hall i j hi hj

theorem IsMatrix.congr (hy : IsMatrix y r c f) {g : Nat → Nat → Int} (h : ∀ i j, i < r → j < c → f i j = g i j) :
    IsMatrix y r c g := by
  obtain ⟨hshape, hr, hc, hget⟩ := hy
  exact ⟨hshape, hr, hc, fun i j hi hj => (hget i j hi hj).trans (h i j hi hj)⟩

/-- R9: a matrix is its dimensions and its cells. -/
theorem IsMatrix.eq_of_get {x : Mat} (hy : IsMatrix y x.rows x.cols x.get) (hx : x.Shaped) : y = x := by
  obtain ⟨hshape, hr, hc, hget⟩ := hy
  exact Mat.ext_get hshape hx hr hc fun i j hi hj => hget i j (hr ▸ hi) (hc ▸ hj)

end

/-- The range check raises no error but OVERFLOW. -/
theorem eq_overflow_of_rangeChecked_eq_err {d : BitVec 4} {y : Mat} {e : CmdError} (h : rangeChecked d y = .err e) :
    e = .overflow := by
  unfold rangeChecked at h
  split at h
  · cases h
  · exact (CmdResult.err.inj h).symm

/-! ### The zero-padded matrix (R88) -/

/-- The cell at the integer position `(u, v)` of the matrix with zeros all around it: the "skipped" terms of R88 are those
that meet a padding zero. -/
def paddedCell (x : Mat) (u v : Int) : Int :=
  if 0 ≤ u ∧ u < x.rows ∧ 0 ≤ v ∧ v < x.cols then x.get u.toNat v.toNat else 0

/-- A position lies in the padding, where every matrix of these dimensions reads 0, or is that of a cell. -/
theorem paddedCell_cases (r c : Nat) (u v : Int) :
    (∀ x : Mat, x.rows = r → x.cols = c → paddedCell x u v = 0) ∨
    ∃ a b : Nat, u = a ∧ v = b ∧ a < r ∧ b < c ∧
      ∀ x : Mat, x.rows = r → x.cols = c → paddedCell x u v = x.get a b := by
  by_cases hin : 0 ≤ u ∧ u < r ∧ 0 ≤ v ∧ v < c
  · refine .inr ⟨u.toNat, v.toNat, by omega, by omega, by omega, by omega, fun x hr hc => ?_⟩
    subst hr hc
    exact if_pos hin
  · refine .inl fun x hr hc => ?_
    subst hr hc
    exact if_neg hin

theorem paddedCell_inside {x : Mat} {i j : Nat} (hi : i < x.rows) (hj : j < x.cols) : paddedCell x i j = x.get i j :=
  if_pos (by omega)

section
variable {x x' : Mat} (hr : x.rows = x'.rows) (hc : x.cols = x'.cols)
include hr hc

/-- Matrices of the same dimensions agree at a position where their cells, if there are any, agree. -/
theorem paddedCell_congr {u v : Int}
    (h : ∀ a b : Nat, u = a → v = b → a < x.rows → b < x.cols → x.get a b = x'.get a b) :
    paddedCell x u v = paddedCell x' u v := by
  rcases paddedCell_cases x.rows x.cols u v with hzero | ⟨a, b, hu, hv, ha, hb, hcell⟩
  · rw [hzero x rfl rfl, hzero x' hr.symm hc.symm]
  · rw [hcell x rfl rfl, hcell x' hr.symm hc.symm, h a b hu hv ha hb]

/-- Padding keeps linear combinations. -/
theorem paddedCell_linear (e u v : Int) :
    paddedCell (Mat.ofFn x.rows x.cols fun a b => e * x.get a b + x'.get a b) u v =
      e * paddedCell x u v + paddedCell x' u v := by
  rcases paddedCell_cases x.rows x.cols u v with hzero | ⟨a, b, -, -, ha, hb, hcell⟩
  · rw [hzero x rfl rfl, hzero x' hr.symm hc.symm, hzero _ (Mat.rows_ofFn ..) (Mat.cols_ofFn ..), mul_zero, add_zero]
  · rw [hcell x rfl rfl, hcell x' hr.symm hc.symm, hcell _ (Mat.rows_ofFn ..) (Mat.cols_ofFn ..), Mat.get_ofFn ha hb]

end

/-! ### The terms of R88 -/

/-- R88, R90: the kernel cell `(p, q)` multiplies, unflipped, the padded cell at the offset `(p - hr, q - hc)`. -/
theorem kernelTerm_eq_mul_paddedCell (k x : Mat) (i j p q : Nat) :
    kernelTerm k x i j p q =
      k.get p q * paddedCell x (i + (p - (k.rows / 2 : Nat))) (j + (q - (k.cols / 2 : Nat))) := by
  unfold kernelTerm
  split
  · next hin =>
    have hu : (i + (p - (k.rows / 2 : Nat)) : Int) = (i + p - k.rows / 2 : Nat) := by omega
    have hv : (j + (q - (k.cols / 2 : Nat)) : Int) = (j + q - k.cols / 2 : Nat) := by omega
    rw [hu, hv, paddedCell_inside (by omega) (by omega)]
  · next hout => rw [paddedCell, if_neg (by omega), mul_zero]

/-- The model counts the offsets from `-h`, the sum of R88 the kernel cells from 0. -/
theorem convTerm_eq_kernelTerm (k x : Mat) (i j p q : Nat) :
    convTerm k x i j (p - (k.rows / 2 : Nat)) (q - (k.cols / 2 : Nat)) = kernelTerm k x i j p q := by
  simp [kernelTerm_eq_mul_paddedCell, convTerm, paddedCell]

/-- R91 item 3: a term reads no cell more than `hr` rows or `hc` columns away. -/
theorem kernelTerm_congr {k x x' : Mat} {i j p q : Nat} (hr : x.rows = x'.rows) (hc : x.cols = x'.cols)
    (hp : p < 2 * (k.rows / 2) + 1) (hq : q < 2 * (k.cols / 2) + 1)
    (h : ∀ u v, u < x.rows → v < x.cols → u ≤ i + k.rows / 2 → i ≤ u + k.rows / 2 → v ≤ j + k.cols / 2 →
      j ≤ v + k.cols / 2 → x.get u v = x'.get u v) :
    kernelTerm k x i j p q = kernelTerm k x' i j p q := by
  rw [kernelTerm_eq_mul_paddedCell, kernelTerm_eq_mul_paddedCell, paddedCell_congr hr hc fun a b ha hb har hbc =>
    h a b har hbc (by omega) (by omega) (by omega) (by omega)]

theorem kernelTerm_linear_matrix (k : Mat) {x x' : Mat} (hr : x.rows = x'.rows) (hc : x.cols = x'.cols) (e : Int)
    (i j p q : Nat) :
    kernelTerm k (Mat.ofFn x.rows x.cols fun u v => e * x.get u v + x'.get u v) i j p q =
      e * kernelTerm k x i j p q + kernelTerm k x' i j p q := by
  simp only [kernelTerm_eq_mul_paddedCell, paddedCell_linear hr hc]
  ring

theorem kernelTerm_linear_kernel {k k' : Mat} (hr : k.rows = k'.rows) (hc : k.cols = k'.cols) (x : Mat) (e : Int)
    (i j : Nat) {p q : Nat} (hp : p < k.rows) (hq : q < k.cols) :
    kernelTerm (Mat.ofFn k.rows k.cols fun u v => e * k.get u v + k'.get u v) x i j p q =
      e * kernelTerm k x i j p q + kernelTerm k' x i j p q := by
  simp only [kernelTerm_eq_mul_paddedCell, Mat.get_ofFn hp hq, Mat.rows_ofFn, Mat.cols_ofFn, ← hr, ← hc]
  ring

/-! ### The sum of R88 -/

theorem sum_map_offsets (h : Nat) (f : Int → Int) :
    ((offsets h).map f).sum = ∑ p ∈ Finset.range (2 * h + 1), f (p - h) := by
  rw [offsets, List.map_map]
  rfl

theorem convCell_eq_kernelSum (k x : Mat) (i j : Nat) : convCell k x i j = kernelSum k x i j := by
  simp only [convCell, sum_map_offsets, convTerm_eq_kernelTerm, kernelSum]

/-- The model's `ConvSum(K, X)` is the matrix of the sums of R88. -/
theorem isMatrix_convSum (k x : Mat) : IsMatrix (convSum k x) x.rows x.cols (kernelSum k x) :=
  (isMatrix_ofFn x.rows x.cols (convCell k x)).congr fun i j _ _ => convCell_eq_kernelSum k x i j

theorem get_convSum (k : Mat) {x : Mat} {i j : Nat} (hi : i < x.rows) (hj : j < x.cols) :
    (convSum k x).get i j = kernelSum k x i j := by
  obtain ⟨-, -, -, hget⟩ := isMatrix_convSum k x
  exact hget i j hi hj

/-- A kernel of odd dimensions has just the cells that the sum runs over. -/
theorem kernelSum_of_odd {k : Mat} (hk : OddShaped k) (x : Mat) (i j : Nat) :
    kernelSum k x i j = ∑ p ∈ Finset.range k.rows, ∑ q ∈ Finset.range k.cols, kernelTerm k x i j p q := by
  obtain ⟨hrows, hcols⟩ := hk
  rw [kernelSum, show 2 * (k.rows / 2) + 1 = k.rows by omega, show 2 * (k.cols / 2) + 1 = k.cols by omega]

/-- A double sum of linear combinations is the linear combination of the double sums. -/
theorem sum_sum_linear (m n : Nat) (e : Int) (f g : Nat → Nat → Int) :
    ∑ p ∈ Finset.range m, ∑ q ∈ Finset.range n, (e * f p q + g p q) =
      e * ∑ p ∈ Finset.range m, ∑ q ∈ Finset.range n, f p q + ∑ p ∈ Finset.range m, ∑ q ∈ Finset.range n, g p q := by
  simp only [Finset.sum_add_distrib, Finset.mul_sum]

theorem kernelSum_linear_matrix (k : Mat) {x x' : Mat} (hr : x.rows = x'.rows) (hc : x.cols = x'.cols) (e : Int)
    (i j : Nat) :
    kernelSum k (Mat.ofFn x.rows x.cols fun u v => e * x.get u v + x'.get u v) i j =
      e * kernelSum k x i j + kernelSum k x' i j := by
  simp only [kernelSum, kernelTerm_linear_matrix k hr hc, sum_sum_linear]

theorem kernelSum_linear_kernel {k k' : Mat} (hk : OddShaped k) (hr : k.rows = k'.rows) (hc : k.cols = k'.cols)
    (x : Mat) (e : Int) (i j : Nat) :
    kernelSum (Mat.ofFn k.rows k.cols fun u v => e * k.get u v + k'.get u v) x i j =
      e * kernelSum k x i j + kernelSum k' x i j := by
  have hk' : OddShaped k' := by rwa [OddShaped, ← hr, ← hc]
  rw [kernelSum_of_odd hk, kernelSum_of_odd hk', kernelSum_of_odd (k := Mat.ofFn ..) hk, ← hr, ← hc, ← sum_sum_linear]
  exact Finset.sum_congr rfl fun p hp => Finset.sum_congr rfl fun q hq =>
    kernelTerm_linear_kernel hr hc x e i j (Finset.mem_range.mp hp) (Finset.mem_range.mp hq)

/-- R91 item 1. -/
theorem kernelSum_of_zero_kernel {k : Mat} (hk : OddShaped k) (hzero : ∀ p q, p < k.rows → q < k.cols → k.get p q = 0)
    (x : Mat) (i j : Nat) : kernelSum k x i j = 0 := by
  rw [kernelSum_of_odd hk]
  refine Finset.sum_eq_zero fun p hp => Finset.sum_eq_zero fun q hq => ?_
  rw [kernelTerm_eq_mul_paddedCell, hzero p q (Finset.mem_range.mp hp) (Finset.mem_range.mp hq), zero_mul]

/-- R91 item 2. -/
theorem kernelSum_of_identity_kernel {x : Mat} {i j : Nat} (hi : i < x.rows) (hj : j < x.cols) :
    kernelSum { rows := 1, cols := 1, cells := [[1]] } x i j = x.get i j := by
  simp [kernelSum, kernelTerm_eq_mul_paddedCell, Mat.get, paddedCell_inside hi hj]

/-! ### The family rule of CONV (R85) -/

theorem convResult_of_empty {k x : Mat} (h : k.rows = 0 ∨ k.cols = 0 ∨ x.rows = 0 ∨ x.cols = 0) (d : BitVec 4) :
    convResult d k x = .okSlot d Mat.empty := by
  refine if_pos ?_
  rw [Bool.or_eq_true, Mat.isEmpty_iff, Mat.isEmpty_iff, or_assoc]
  exact h

section
variable {k x : Mat} (hxr : 0 < x.rows) (hxc : 0 < x.cols)
include hxr hxc

theorem convResult_of_even (hkr : 0 < k.rows) (hkc : 0 < k.cols) (h : ¬OddShaped k) (d : BitVec 4) :
    convResult d k x = .err .kernelShape := by
  rw [convResult, (Mat.isEmpty_eq_false_iff k).mpr ⟨hkr, hkc⟩, (Mat.isEmpty_eq_false_iff x).mpr ⟨hxr, hxc⟩,
    if_neg (by decide), if_pos (by omega)]

/-- A kernel of odd dimensions is not empty, so only the range check of R89 is left. -/
theorem convResult_of_odd (h : OddShaped k) (d : BitVec 4) : convResult d k x = rangeChecked d (convSum k x) := by
  rw [convResult, (Mat.isEmpty_eq_false_iff k).mpr (by omega), (Mat.isEmpty_eq_false_iff x).mpr ⟨hxr, hxc⟩,
    if_neg (by decide), if_neg (by omega)]

end

/-- Where the sums are known and in range, CONV by a kernel of odd dimensions completes with the matrix of them. -/
theorem exec_conv_of_inRange {d a b : BitVec 4} {s : State} (hslots : SlotsExist (.conv d a b) s)
    (hodd : OddShaped (source s a)) (hr : 0 < (source s b).rows) (hc : 0 < (source s b).cols) {f : Nat → Nat → Int}
    (hsum : IsMatrix (convSum (source s a) (source s b)) (source s b).rows (source s b).cols f)
    (hin : ∀ i j, i < (source s b).rows → j < (source s b).cols → -2147483648 ≤ f i j ∧ f i j ≤ 2147483647) :
    exec (.conv d a b) s = .next (okState d (convSum (source s a) (source s b)) s) := by
  rw [exec_of_slotsExist hslots, familyResult, convResult_of_odd hr hc hodd, rangeChecked_of_inRange hsum hin,
    complete_okSlot]

/-! ### The statements -/

/-- Settles O21: the model's matrix of sums is the one of R88, and the range check is on its cells. -/
theorem convComputesKernelSums : Obligations.ConvComputesKernelSums := by
  intro d a b s hslots hodd hr hc
  have hsum := isMatrix_convSum (source s a) (source s b)
  refine ⟨fun hin => ⟨_, exec_conv_of_inRange hslots hodd hr hc hsum hin, hsum⟩, fun hout => ?_⟩
  rw [exec_of_slotsExist hslots, familyResult, convResult_of_odd hr hc hodd, rangeChecked_of_outOfRange hsum hout,
    complete_err]
  rfl

/-- Settles O20: a non-empty kernel fails the shape check when it is even; an odd one reaches the range check, whose only
error is OVERFLOW. -/
theorem convRefusesEvenKernel : Obligations.ConvRefusesEvenKernel := by
  intro d a b s hslots hkr hkc hr hc
  rw [exec_of_slotsExist hslots, familyResult]
  refine ⟨fun heven => ?_, fun hodd herr hexec => ?_⟩
  · rw [convResult_of_even hr hc hkr hkc heven, complete_err]
    rfl
  · rw [convResult_of_odd hr hc hodd] at hexec
    obtain ⟨e, he, hcode⟩ := exists_err_of_complete_eq_errState herr (Host.Outcome.next.inj hexec)
    rw [eq_overflow_of_rangeChecked_eq_err he] at hcode
    exact absurd hcode (by decide)

/-- Settles O22: the sums are 0, or the source's own cells, and so all in range. -/
theorem convByZeroAndByIdentity : Obligations.ConvByZeroAndByIdentity := by
  intro d a b s hslots hok hr hc
  have hsum := isMatrix_convSum (source s a) (source s b)
  refine ⟨fun hodd hzero => ?_, fun hkernel => ?_⟩
  · have hzeros := hsum.congr fun i j _ _ => kernelSum_of_zero_kernel hodd hzero (source s b) i j
    exact ⟨_, exec_conv_of_inRange hslots hodd hr hc hzeros fun _ _ _ _ => by decide, hzeros⟩
  · have hodd : OddShaped (source s a) := by
      rw [hkernel]
      decide
    have hcells : IsMatrix (convSum (source s a) (source s b)) _ _ (source s b).get := hsum.congr fun i j hi hj => by
      rw [hkernel, kernelSum_of_identity_kernel hi hj]
    rw [exec_conv_of_inRange hslots hodd hr hc hcells fun i j hi hj => (inRange32_iff _).mp (hok.in_range i j hi hj),
      hcells.eq_of_get hok.shaped]

/-- Settles O23, term by term. -/
theorem convCellIsLocal : Obligations.ConvCellIsLocal := by
  intro k x x' i j hr hc hi hj h
  rw [get_convSum k hi hj, get_convSum k (hr ▸ hi) (hc ▸ hj)]
  exact Finset.sum_congr rfl fun p hp => Finset.sum_congr rfl fun q hq =>
    kernelTerm_congr hr hc (Finset.mem_range.mp hp) (Finset.mem_range.mp hq) h

/-- Settles O24: each term is linear in the kernel cell and in the padded cell that it multiplies. -/
theorem convIsLinear : Obligations.ConvIsLinear := by
  refine ⟨fun k x x' e i j hr hc hi hj => ?_, fun k k' x e i j hk hr hc hi hj => ?_⟩
  · rw [get_convSum k hi hj, get_convSum k (x := x') (hr ▸ hi) (hc ▸ hj), get_convSum k (x := Mat.ofFn ..) hi hj]
    exact kernelSum_linear_matrix k hr hc e i j
  · rw [get_convSum _ hi hj, get_convSum _ hi hj, get_convSum _ hi hj]
    exact kernelSum_linear_kernel hk hr hc x e i j

/-- Settles O19: the check for an empty operand comes before the kernel's shape and the sum. -/
theorem convOfEmptyGivesEmpty : Obligations.ConvOfEmptyGivesEmpty := by
  intro d a b s hslots hempty
  rw [exec_of_slotsExist hslots, familyResult, convResult_of_empty hempty, complete_okSlot]
  rfl

end Sys2Proof.Machine

/-! The cellwise commands SUM, SQR, ISQRT and REVR (42_elementwise.md): the integer square root is the largest root, and
each command builds its matrix cell by cell behind its own check. -/

namespace Sys2Proof.Machine

/-! ### The integer square root (R95) -/

/-- The `n` digits still to be found add up to less than `2 ^ n`, so a square above `x` at `r + 2 ^ n` leaves the root
found with a successor whose square is above `x`. -/
theorem lt_succ_isqrtDigits_mul_self {x : Nat} (n : Nat) {r : Nat} (hr : x < (r + 2 ^ n) * (r + 2 ^ n)) :
    x < (isqrtDigits x n r + 1) * (isqrtDigits x n r + 1) := by
  induction n generalizing r with
  | zero => exact hr
  | succ n ih =>
    simp only [isqrtDigits]
    split
    · refine ih ?_
      rwa [add_assoc, ← two_mul, ← pow_succ']
    · next hd => exact ih (Nat.lt_of_not_le hd)

/-- `log2 x + 1` digits are enough. -/
theorem lt_succ_isqrt_mul_self (x : Nat) : x < (isqrt x + 1) * (isqrt x + 1) := by
  refine lt_succ_isqrtDigits_mul_self _ ?_
  rw [zero_add]
  exact Nat.lt_log2_self.trans_le (Nat.le_mul_self _)

/-- The digit-by-digit root is the library's. -/
theorem isqrt_eq_sqrt (x : Nat) : isqrt x = Nat.sqrt x :=
  Nat.eq_sqrt.mpr ⟨isqrt_mul_self_le x, lt_succ_isqrt_mul_self x⟩

theorem le_isqrt_iff {r x : Nat} : r ≤ isqrt x ↔ r * r ≤ x := by
  rw [isqrt_eq_sqrt, Nat.le_sqrt]

/-- R95 for the integer that a cell holds. -/
theorem isqrt_toNat_exact {x : Int} (hx : 0 ≤ x) :
    (isqrt x.toNat * isqrt x.toNat : Int) ≤ x ∧ ∀ r : Int, 0 ≤ r → r * r ≤ x → r ≤ isqrt x.toNat := by
  lift x to Nat using hx
  refine ⟨mod_cast isqrt_mul_self_le x, fun r hr hle => ?_⟩
  lift r to Nat using hr
  exact mod_cast le_isqrt_iff.mpr (mod_cast hle)

/-- R97 item 3: the root of an exact square is the magnitude. -/
theorem isqrt_toNat_mul_self (x : Int) : (isqrt (x * x).toNat : Int) = |x| := by
  rw [← Int.natAbs_mul_self, Int.toNat_natCast, isqrt_eq_sqrt, Nat.sqrt_eq, Int.natCast_natAbs]

/-! ### The squares that fit a cell (R93) -/

/-- 46340 is the integer square root of 2^31 - 1. -/
theorem mul_self_inRange_iff (x : Int) : (-2147483648 ≤ x * x ∧ x * x ≤ 2147483647) ↔ |x| ≤ 46340 := by
  have hnonneg := mul_self_nonneg x
  rw [← abs_mul_abs_self] at hnonneg ⊢
  have := abs_nonneg x
  constructor
  · rintro ⟨-, hle⟩
    by_contra! hlt
    nlinarith
  · intro hle
    exact ⟨by omega, by nlinarith⟩

/-! ### The matrices (R92, R93, R94, R96) -/

theorem isMatrix_matAdd (p q : Mat) : IsMatrix (matAdd p q) p.rows p.cols fun i j => p.get i j + q.get i j :=
  isMatrix_ofFn ..

theorem isMatrix_matSquare (p : Mat) : IsMatrix (matSquare p) p.rows p.cols fun i j => p.get i j * p.get i j :=
  isMatrix_ofFn ..

theorem isMatrix_matIsqrt (p : Mat) : IsMatrix (matIsqrt p) p.rows p.cols fun i j => isqrt (p.get i j).toNat :=
  isMatrix_ofFn ..

theorem isMatrix_matReverse (p : Mat) : IsMatrix (matReverse p) p.rows p.cols fun i j => p.get (p.rows - 1 - i) j :=
  isMatrix_ofFn ..

/-- R93: a square is never negative. -/
theorem get_matSquare_nonneg {p : Mat} {i j : Nat} (hi : i < p.rows) (hj : j < p.cols) :
    0 ≤ (matSquare p).get i j := by
  obtain ⟨-, -, -, hget⟩ := isMatrix_matSquare p
  rw [hget i j hi hj]
  exact mul_self_nonneg _

/-- Matrices of the same dimensions add up to the same matrix in either order. -/
theorem matAdd_comm {p q : Mat} (hr : p.rows = q.rows) (hc : p.cols = q.cols) : matAdd p q = matAdd q p := by
  simp only [matAdd, hr, hc, add_comm]

/-- R97 item 3, for every matrix. -/
theorem isMatrix_matIsqrt_matSquare (p : Mat) :
    IsMatrix (matIsqrt (matSquare p)) p.rows p.cols fun i j => |p.get i j| := by
  obtain ⟨-, -, -, hget⟩ := isMatrix_matSquare p
  exact (isMatrix_matIsqrt (matSquare p)).congr fun i j hi hj => by rw [hget i j hi hj, isqrt_toNat_mul_self]

/-- R97 item 1: row `i` of the reversal is row `rows - 1 - i`, and back again. -/
theorem matReverse_matReverse {p : Mat} (hp : p.Shaped) : matReverse (matReverse p) = p := by
  obtain ⟨-, hr, hc, hget⟩ := isMatrix_matReverse p
  refine IsMatrix.eq_of_get ((isMatrix_matReverse (matReverse p)).congr fun i j hi hj => ?_) hp
  rw [hr] at hi ⊢
  have hback : p.rows - 1 - (p.rows - 1 - i) = i := by omega
  simp only [hget (p.rows - 1 - i) j (by omega) (hc ▸ hj), hback]

/-! ### The family rules (R92, R94) -/

theorem sumResult_of_mismatch {p q : Mat} (h : p.rows ≠ q.rows ∨ p.cols ≠ q.cols) (d : BitVec 4) :
    sumResult d p q = .err .dimMismatch :=
  if_pos h

theorem sumResult_of_match {p q : Mat} (hr : p.rows = q.rows) (hc : p.cols = q.cols) (d : BitVec 4) :
    sumResult d p q = rangeChecked d (matAdd p q) :=
  if_neg (by simp [hr, hc])

/-- R97 item 2. -/
theorem sumResult_comm (d : BitVec 4) (p q : Mat) : sumResult d p q = sumResult d q p := by
  by_cases h : p.rows = q.rows ∧ p.cols = q.cols
  · obtain ⟨hr, hc⟩ := h
    rw [sumResult_of_match hr hc, sumResult_of_match hr.symm hc.symm, matAdd_comm hr hc]
  · rw [sumResult_of_mismatch (by omega), sumResult_of_mismatch (by omega)]

theorem isqrtResult_of_nonneg {p : Mat} (h : ∀ i j, i < p.rows → j < p.cols → 0 ≤ p.get i j) (d : BitVec 4) :
    isqrtResult d p = .okSlot d (matIsqrt p) :=
  if_pos ((Mat.all_iff p _).mpr fun i j hi hj => decide_eq_true (h i j hi hj))

theorem isqrtResult_of_negative {p : Mat} (h : ∃ i j, i < p.rows ∧ j < p.cols ∧ p.get i j < 0) (d : BitVec 4) :
    isqrtResult d p = .err .negSqrt := by
  obtain ⟨i, j, hi, hj, hneg⟩ := h
  refine if_neg fun hall => hneg.not_ge ?_
  exact of_decide_eq_true ((Mat.all_iff p _).mp hall i j hi hj)

/-! ### The commands (R75, R76, R80) -/

/-- The order in which the slot fields are checked does not matter (R81). -/
theorem withSlots_perm {fields fields' : List (BitVec 4)} (h : fields.Perm fields') (s : State) (r : CmdResult) :
    withSlots s fields r = withSlots s fields' r := by
  have hcheck : slotFieldBad s fields = slotFieldBad s fields' := by
    rw [Bool.eq_iff_iff]
    simp only [slotFieldBad_iff, h.mem_iff]
  rw [withSlots, withSlots, hcheck]

/-- R11: what a command wrote to an existing slot is what the next command reads there. -/
theorem source_okState_self {d : BitVec 4} {s : State} (h : d.toNat < s.slots.length) (y : Mat) :
    source (okState d y s) d = y :=
  slotRead_slotWrite_self h

section
variable {i : Instr} {d : BitVec 4} {s : State} {y : Mat} {r c : Nat} {f : Nat → Nat → Int}
  (hslots : SlotsExist i s) (hrule : familyResult i s = rangeChecked d y) (hy : IsMatrix y r c f)
include hslots hrule hy

/-- A command whose rule is one range check completes with the matrix checked where all of its cells are in range. -/
theorem exec_of_rangeChecked_inRange (h : ∀ i j, i < r → j < c → -2147483648 ≤ f i j ∧ f i j ≤ 2147483647) :
    exec i s = .next (okState d y s) := by
  rw [exec_of_slotsExist hslots, hrule, rangeChecked_of_inRange hy h, complete_okSlot]

/-- A command whose rule is one range check ends with OVERFLOW where a cell is out of range. -/
theorem exec_of_rangeChecked_outOfRange
    (h : ∃ i j, i < r ∧ j < c ∧ ¬(-2147483648 ≤ f i j ∧ f i j ≤ 2147483647)) :
    exec i s = .next (errState 0x06 s) := by
  rw [exec_of_slotsExist hslots, hrule, rangeChecked_of_outOfRange hy h, complete_err]
  rfl

end

section
variable {d a : BitVec 4} {s : State}

theorem exec_sqr_of_small (hslots : SlotsExist (.sqr d a) s)
    (h : ∀ i j, i < (source s a).rows → j < (source s a).cols → |(source s a).get i j| ≤ 46340) :
    exec (.sqr d a) s = .next (okState d (matSquare (source s a)) s) :=
  exec_of_rangeChecked_inRange hslots rfl (isMatrix_matSquare _) fun i j hi hj =>
    (mul_self_inRange_iff _).mpr (h i j hi hj)

theorem exec_isqrt_of_nonneg (hslots : SlotsExist (.isqrt d a) s)
    (h : ∀ i j, i < (source s a).rows → j < (source s a).cols → 0 ≤ (source s a).get i j) :
    exec (.isqrt d a) s = .next (okState d (matIsqrt (source s a)) s) := by
  rw [exec_of_slotsExist hslots, familyResult, isqrtResult_of_nonneg h, complete_okSlot]

theorem exec_revr (hslots : SlotsExist (.revr d a) s) :
    exec (.revr d a) s = .next (okState d (matReverse (source s a)) s) :=
  exec_of_slotsExist hslots

end

/-! ### The statements -/

/-- Settles O29: the digits found keep the square at or below `x`, and those left out would exceed it. -/
theorem integerSquareRootIsExact : Obligations.IntegerSquareRootIsExact :=
  fun x => ⟨isqrt_mul_self_le x, fun _ => le_isqrt_iff.mpr⟩

/-- Settles O25: the check of the dimensions comes before the range check on the sums. -/
theorem sumAddsCellwise : Obligations.SumAddsCellwise := by
  refine ⟨fun w => and_maskWord_eq_matchWord_iff_decode (i := .sum 0 0 0), fun d a b s hslots =>
    ⟨fun hne => ?_, fun hr hc => ?_⟩⟩
  · rw [exec_of_slotsExist hslots, familyResult, sumResult_of_mismatch hne, complete_err]
    rfl
  · have hrule : familyResult (.sum d a b) s = rangeChecked d (matAdd (source s a) (source s b)) :=
      sumResult_of_match hr hc d
    have hsum := isMatrix_matAdd (source s a) (source s b)
    exact ⟨exec_of_rangeChecked_outOfRange hslots hrule hsum,
      fun hin => ⟨_, exec_of_rangeChecked_inRange hslots hrule hsum hin, hsum⟩⟩

/-- Settles O26: neither the slot check nor the family rule depends on the order of the sources. -/
theorem sumIsCommutative : Obligations.SumIsCommutative := by
  intro d a b s
  have hfields : (Instr.sum d a b).slotOperands.Perm (Instr.sum d b a).slotOperands := (List.Perm.swap b a []).cons d
  have hrule : familyResult (.sum d a b) s = familyResult (.sum d b a) s := sumResult_comm d _ _
  rw [exec_eq_complete, exec_eq_complete, withSlots_perm hfields, hrule]

/-- Settles O27: a square is in range exactly when the magnitude is at most 46340. -/
theorem sqrSquaresCellwise : Obligations.SqrSquaresCellwise := by
  refine ⟨fun w => and_maskWord_eq_matchWord_iff_decode (i := .sqr 0 0), fun d a s hslots => ?_⟩
  have hsq := isMatrix_matSquare (source s a)
  refine ⟨fun ⟨i, j, hi, hj, hbig⟩ => ?_, fun hsmall =>
    ⟨_, exec_sqr_of_small hslots hsmall, hsq, fun _ _ => get_matSquare_nonneg⟩⟩
  exact exec_of_rangeChecked_outOfRange hslots rfl hsq
    ⟨i, j, hi, hj, fun hin => absurd ((mul_self_inRange_iff _).mp hin) (by omega)⟩

/-- Settles O28: the sign check is on the whole source, and each root is the one of R95. -/
theorem isqrtTakesRootsCellwise : Obligations.IsqrtTakesRootsCellwise := by
  refine ⟨fun w => and_maskWord_eq_matchWord_iff_decode (i := .isqrt 0 0), fun d a s hslots =>
    ⟨fun hneg => ?_, fun hnonneg => ?_⟩⟩
  · rw [exec_of_slotsExist hslots, familyResult, isqrtResult_of_negative hneg, complete_err]
    rfl
  · obtain ⟨hshape, hr, hc, hget⟩ := isMatrix_matIsqrt (source s a)
    refine ⟨_, exec_isqrt_of_nonneg hslots hnonneg, hshape, hr, hc, fun i j hi hj => ?_⟩
    rw [hget i j hi hj]
    exact ⟨Int.natCast_nonneg _, isqrt_toNat_exact (hnonneg i j hi hj)⟩

/-- Settles O30: ISQRT reads the squares that SQR wrote, none of them negative. -/
theorem squareThenRootGivesMagnitude : Obligations.SquareThenRootGivesMagnitude := by
  intro t a u s hsqr hisqrt hlen hsmall
  have ht : t.toNat < s.slots.length := hlen ▸ hsqr t List.mem_cons_self
  have hsource := source_okState_self ht (matSquare (source s a))
  refine ⟨_, _, _, exec_sqr_of_small hsqr hsmall, exec_isqrt_of_nonneg hisqrt ?_, rfl, ?_⟩
  · rw [hsource]
    exact fun _ _ => get_matSquare_nonneg (p := source s a)
  · rw [hsource]
    exact isMatrix_matIsqrt_matSquare _

/-- Settles O31: REVR has no check of its own. -/
theorem revrReversesRows : Obligations.RevrReversesRows :=
  ⟨fun _ => and_maskWord_eq_matchWord_iff_decode (i := .revr 0 0),
    fun _ a s hslots => ⟨_, exec_revr hslots, isMatrix_matReverse (source s a)⟩⟩

/-- Settles O32: the second REVR reads the reversal that the first one wrote. -/
theorem revrTwiceIsIdentity : Obligations.RevrTwiceIsIdentity := by
  intro t a u s s1 s2 ht hu hlen hshaped h1 h2
  obtain rfl := Host.Outcome.next.inj ((exec_revr ht).symm.trans h1)
  obtain rfl := Host.Outcome.next.inj ((exec_revr (s := okState t _ s) hu).symm.trans h2)
  have htlen : t.toNat < s.slots.length := hlen ▸ ht t List.mem_cons_self
  have hulen : u.toNat < (okState t (matReverse (source s a)) s).slots.length := by
    rw [okState, List.length_set, hlen]
    exact hu u List.mem_cons_self
  rw [source_okState_self hulen, source_okState_self htlen, matReverse_matReverse hshaped]

end Sys2Proof.Machine

/-! DECODE (43_bitmap_decoder.md): the checks of R99 in their order, the matrix of R100 to R103, and that the result reads
the two header fields and the pixels alone (R104). -/

namespace Sys2Proof.Machine

/-! ### The checks (R99) -/

section
variable {d : BitVec 4} {s : State}

theorem decodeResult_of_truncatedHeader (hlen : s.bmpLen.toNat < 0x1A) :
    decodeResult d s = .err .malformedInput :=
  if_pos hlen

theorem decodeResult_of_nonpositive (hlen : 0x1A ≤ s.bmpLen.toNat) (hdim : le32 s 0x12 ≤ 0 ∨ le32 s 0x16 ≤ 0) :
    decodeResult d s = .err .malformedInput := by
  rw [decodeResult, if_neg (Nat.not_lt.mpr hlen), if_pos hdim]

section
variable {w h : Nat} (hlen : 0x1A ≤ s.bmpLen.toNat) (hwidth : le32 s 0x12 = w) (hheight : le32 s 0x16 = h)
  (hw : 0 < w) (hh : 0 < h)
include hlen hwidth hheight hw hh

/-- A header with positive dimensions leaves the checks of the slot size and of the pixel plane, on natural numbers. -/
theorem decodeResult_of_header :
    decodeResult d s =
      if s.params.maxRows < h ∨ s.params.maxCols < w then .err .capacity
      else if s.bmpLen.toNat < 0x36 + (h - 1) * rowStride s.pendStride w h + w then .err .malformedInput
      else .okSlot d (matReverse (storedRows s w h (rowStride s.pendStride w h))) := by
  have hpos : ¬((w : Int) ≤ 0 ∨ (h : Int) ≤ 0) := by omega
  simp only [decodeResult, hwidth, hheight, if_neg (Nat.not_lt.mpr hlen), if_neg hpos, Int.toNat_natCast, Nat.cast_lt]

theorem decodeResult_of_overCapacity (hcap : s.params.maxRows < h ∨ s.params.maxCols < w) :
    decodeResult d s = .err .capacity := by
  rw [decodeResult_of_header hlen hwidth hheight hw hh, if_pos hcap]

variable (hrows : h ≤ s.params.maxRows) (hcols : w ≤ s.params.maxCols)
include hrows hcols

theorem decodeResult_of_truncatedPixels (hplane : s.bmpLen.toNat < 0x36 + (h - 1) * rowStride s.pendStride w h + w) :
    decodeResult d s = .err .malformedInput := by
  rw [decodeResult_of_header hlen hwidth hheight hw hh, if_neg (by omega), if_pos hplane]

theorem decodeResult_of_valid (hplane : 0x36 + (h - 1) * rowStride s.pendStride w h + w ≤ s.bmpLen.toNat) :
    decodeResult d s = .okSlot d (matReverse (storedRows s w h (rowStride s.pendStride w h))) := by
  rw [decodeResult_of_header hlen hwidth hheight hw hh, if_neg (by omega), if_neg (Nat.not_lt.mpr hplane)]

end

theorem exec_decode_of_err {e : CmdError} (hslots : SlotsExist (.decode d) s) (h : decodeResult d s = .err e) :
    exec (.decode d) s = .next (errState (cmdErrorCode e) s) := by
  rw [exec_of_slotsExist hslots, familyResult, h, complete_err]

theorem exec_decode_of_ok {y : Mat} (hslots : SlotsExist (.decode d) s) (h : decodeResult d s = .okSlot d y) :
    exec (.decode d) s = .next (okState d y s) := by
  rw [exec_of_slotsExist hslots, familyResult, h, complete_okSlot]

end

/-- R99: for positive dimensions the exact bound of check 3 is the bound on natural numbers. -/
theorem natCast_planeEnd (stride : Bool) {w h : Nat} (hh : 0 < h) :
    ((0x36 + (h - 1) * rowStride stride w h + w : Nat) : Int) =
      0x36 + ((h : Int) - 1) * (if stride then (h : Int) else w) + w := by
  cases stride <;> simp [rowStride, Nat.cast_sub (Nat.succ_le_of_lt hh)]

/-! ### The matrix (R100 to R103) -/

/-- R101: a byte read as an unsigned number. -/
theorem byte_toNat_range (b : Byte) : 0 ≤ (b.toNat : Int) ∧ (b.toNat : Int) ≤ 255 := by
  omega

theorem isMatrix_storedRows (s : State) (w h stride : Nat) :
    IsMatrix (storedRows s w h stride) h w fun i j => (bmpRead s (0x36 + i * stride + j)).toNat :=
  isMatrix_ofFn ..

/-- R102: the stored rows are bottom-up. -/
theorem isMatrix_matReverse_storedRows (s : State) (w h stride : Nat) :
    IsMatrix (matReverse (storedRows s w h stride)) h w fun i j =>
      (bmpRead s (0x36 + (h - 1 - i) * stride + j)).toNat := by
  obtain ⟨-, hr, hc, hget⟩ := isMatrix_storedRows s w h stride
  refine (isMatrix_matReverse (storedRows s w h stride)).congr fun i j hi hj => ?_
  exact hget (h - 1 - i) j (by omega) hj

/-! ### What DECODE reads (R104) -/

/-- The two states agree on all that DECODE reads: the parameters, BMP_LEN, PEND.stride, the two header fields and the
pixels. -/
structure SameImage (s s' : State) : Prop where
  params : s'.params = s.params
  bmpLen : s'.bmpLen = s.bmpLen
  pendStride : s'.pendStride = s.pendStride
  width : le32 s' 0x12 = le32 s 0x12
  height : le32 s' 0x16 = le32 s 0x16
  pixels : ∀ i j, i < (le32 s 0x16).toNat → j < (le32 s 0x12).toNat →
    let stride := rowStride s.pendStride (le32 s 0x12).toNat (le32 s 0x16).toNat
    bmpRead s' (0x36 + i * stride + j) = bmpRead s (0x36 + i * stride + j)

/-- A header field is its four bytes (R53). -/
theorem le32_eq_of_bytes {s s' : State} {addr : Nat}
    (h : ∀ a, addr ≤ a → a < addr + 4 → bmpRead s' a = bmpRead s a) : le32 s' addr = le32 s addr := by
  rw [le32, le32, h addr (by omega) (by omega), h (addr + 1) (by omega) (by omega),
    h (addr + 2) (by omega) (by omega), h (addr + 3) (by omega) (by omega)]

theorem storedRows_eq_of_pixels {s s' : State} {w h stride : Nat}
    (hpix : ∀ i j, i < h → j < w → bmpRead s' (0x36 + i * stride + j) = bmpRead s (0x36 + i * stride + j)) :
    storedRows s' w h stride = storedRows s w h stride := by
  obtain ⟨hshape, -, -, hget⟩ := isMatrix_storedRows s w h stride
  refine ((isMatrix_storedRows s' w h stride).congr fun i j hi hj => ?_).eq_of_get hshape
  rw [hpix i j hi hj, hget i j hi hj]

theorem SameImage.decodeResult_eq {s s' : State} (h : SameImage s s') (d : BitVec 4) :
    decodeResult d s' = decodeResult d s := by
  simp only [decodeResult, h.params, h.bmpLen, h.pendStride, h.width, h.height, storedRows_eq_of_pixels h.pixels]

theorem SameImage.withSlots_eq {s s' : State} (h : SameImage s s') (d : BitVec 4) :
    withSlots s' (Instr.decode d).slotOperands (familyResult (.decode d) s') =
      withSlots s (Instr.decode d).slotOperands (familyResult (.decode d) s) := by
  have hcheck (fields : List (BitVec 4)) : slotFieldBad s' fields = slotFieldBad s fields := by
    simp only [slotFieldBad, h.params]
  rw [withSlots, withSlots, hcheck, familyResult, familyResult, h.decodeResult_eq]

/-! ### The statements -/

/-- Settles O34: each check is reached when those before it pass. -/
theorem decodeChecksTheBuffer : Obligations.DecodeChecksTheBuffer := by
  intro d s hslots
  refine ⟨fun hlen => exec_decode_of_err hslots (decodeResult_of_truncatedHeader hlen), fun hlen =>
    ⟨fun hdim => exec_decode_of_err hslots (decodeResult_of_nonpositive hlen hdim), fun hw hh => ?_⟩⟩
  obtain ⟨w, hwidth⟩ := Int.eq_ofNat_of_zero_le hw.le
  obtain ⟨h, hheight⟩ := Int.eq_ofNat_of_zero_le hh.le
  rw [hwidth] at hw ⊢
  rw [hheight] at hh ⊢
  norm_cast at hw hh
  refine ⟨fun hcap => ?_, fun hrows hcols hplane => ?_⟩
  · exact exec_decode_of_err hslots
      (decodeResult_of_overCapacity hlen hwidth hheight hw hh (by exact_mod_cast hcap))
  · rw [← natCast_planeEnd s.pendStride hh] at hplane
    exact exec_decode_of_err hslots (decodeResult_of_truncatedPixels hlen hwidth hheight hw hh
      (Int.ofNat_le.mp hrows) (Int.ofNat_le.mp hcols) (Int.ofNat_lt.mp hplane))

/-- Settles O35: past the checks DECODE writes the stored rows in reverse order, and a byte is at most 255. -/
theorem decodeReadsThePixels : Obligations.DecodeReadsThePixels := by
  intro d s h w hslots hlen hwidth hheight hw hh hrows hcols hplane
  have hvalid := decodeResult_of_valid (d := d) hlen hwidth hheight hw hh hrows hcols hplane
  have hmat := isMatrix_matReverse_storedRows s w h (rowStride s.pendStride w h)
  refine ⟨_, exec_decode_of_ok hslots hvalid, hmat, fun i j hi hj => ?_⟩
  obtain ⟨-, -, -, hget⟩ := hmat
  rw [hget i j hi hj]
  exact byte_toNat_range _

/-- Settles O36: the two states hold the same image, so the result and its completion are the same. -/
theorem decodeIgnoresEveryOtherByte : Obligations.DecodeIgnoresEveryOtherByte := by
  rintro d s s' t t' _ hs hheader rfl hpix ht ht'
  have himage : SameImage s s' :=
    { params := (congrArg State.params hs :)
      bmpLen := (congrArg State.bmpLen hs :)
      pendStride := (congrArg State.pendStride hs :)
      width := le32_eq_of_bytes fun a _ _ => hheader a (by omega) (by omega)
      height := le32_eq_of_bytes fun a _ _ => hheader a (by omega) (by omega)
      pixels := hpix }
  obtain rfl := exec_next_iff.mp ht
  obtain rfl := exec_next_iff.mp ht'
  rw [himage.withSlots_eq d]
  exact complete_congr _ (congrArg State.slots hs :) (congrArg State.status hs :)

end Sys2Proof.Machine

/-! LDK, SOBEL and HOUGH (44_sobel_filter.md): SOBEL's range check on `Gx^2 + Gy^2` decides all the others, and the
sequence of R108 makes the same checks one after another. -/

namespace Sys2Proof.Machine

/-! ### The ROM kernels (R18, R105) -/

theorem romKernel_of_zero {k : BitVec 4} (h : k.toNat = 0) : romKernel k = some kernelKx := by
  simp only [romKernel, h]

theorem romKernel_of_one {k : BitVec 4} (h : k.toNat = 1) : romKernel k = some kernelKy := by
  simp only [romKernel, h]

theorem romKernel_of_two_le {k : BitVec 4} (h : 2 ≤ k.toNat) : romKernel k = none := by
  unfold romKernel
  split
  · omega
  · omega
  · rfl

theorem ldkResult_of_kernel {k : BitVec 4} {x : Mat} (h : romKernel k = some x) (d : BitVec 4) :
    ldkResult d k = .okSlot d x := by
  rw [ldkResult, h]

theorem ldkResult_of_none {k : BitVec 4} (h : romKernel k = none) (d : BitVec 4) :
    ldkResult d k = .err .badRomId := by
  rw [ldkResult, h]

theorem exec_ldk_of_kernel {d k : BitVec 4} {s : State} {x : Mat} (hslots : SlotsExist (.ldk d k) s)
    (h : romKernel k = some x) : exec (.ldk d k) s = .next (okState d x s) := by
  rw [exec_of_slotsExist hslots, familyResult, ldkResult_of_kernel h, complete_okSlot]

theorem oddShaped_kernelKx : OddShaped kernelKx := by decide

theorem oddShaped_kernelKy : OddShaped kernelKy := by decide

/-! ### The sums of R88 for the ROM kernels -/

section
variable (x : Mat) (i j : Nat)

/-- R88 for a 3x3 kernel, row by row of the kernel. -/
theorem kernelSum_of_three_by_three {k : Mat} (hr : k.rows = 3) (hc : k.cols = 3) :
    kernelSum k x i j =
      (k.get 0 0 * paddedCell x (i - 1) (j - 1) + k.get 0 1 * paddedCell x (i - 1) j +
        k.get 0 2 * paddedCell x (i - 1) (j + 1)) +
      (k.get 1 0 * paddedCell x i (j - 1) + k.get 1 1 * paddedCell x i j + k.get 1 2 * paddedCell x i (j + 1)) +
      (k.get 2 0 * paddedCell x (i + 1) (j - 1) + k.get 2 1 * paddedCell x (i + 1) j +
        k.get 2 2 * paddedCell x (i + 1) (j + 1)) := by
  simp [kernelSum, kernelTerm_eq_mul_paddedCell, hr, hc, Finset.sum_range_succ, sub_eq_add_neg]

/-- R18: Kx weighs the column on the right against the column on the left. -/
theorem kernelSum_kernelKx :
    kernelSum kernelKx x i j =
      (paddedCell x (i - 1) (j + 1) - paddedCell x (i - 1) (j - 1)) +
      2 * (paddedCell x i (j + 1) - paddedCell x i (j - 1)) +
      (paddedCell x (i + 1) (j + 1) - paddedCell x (i + 1) (j - 1)) := by
  rw [kernelSum_of_three_by_three x i j rfl rfl]
  change (-1 * _ + 0 * _ + 1 * _) + (-2 * _ + 0 * _ + 2 * _) + (-1 * _ + 0 * _ + 1 * _) = _
  ring

/-- R18: Ky weighs the row below against the row above. -/
theorem kernelSum_kernelKy :
    kernelSum kernelKy x i j =
      (paddedCell x (i + 1) (j - 1) - paddedCell x (i - 1) (j - 1)) +
      2 * (paddedCell x (i + 1) j - paddedCell x (i - 1) j) +
      (paddedCell x (i + 1) (j + 1) - paddedCell x (i - 1) (j + 1)) := by
  rw [kernelSum_of_three_by_three x i j rfl rfl]
  change (-1 * _ + -2 * _ + -1 * _) + (0 * _ + 0 * _ + 0 * _) + (1 * _ + 2 * _ + 1 * _) = _
  ring

end

/-- The magnitude squared of the gradient at a cell (R106). -/
def cellEnergy (x : Mat) (i j : Nat) : Int :=
  kernelSum kernelKx x i j ^ 2 + kernelSum kernelKy x i j ^ 2

theorem cellEnergy_nonneg (x : Mat) (i j : Nat) : 0 ≤ cellEnergy x i j :=
  add_nonneg (sq_nonneg _) (sq_nonneg _)

section
variable {x : Mat}

/-- Padding with zeros keeps the cells within bounds that 0 meets. -/
theorem paddedCell_range {lo hi : Int} (hlo : lo ≤ 0) (hhi : 0 ≤ hi)
    (h : ∀ i j, i < x.rows → j < x.cols → lo ≤ x.get i j ∧ x.get i j ≤ hi) (u v : Int) :
    lo ≤ paddedCell x u v ∧ paddedCell x u v ≤ hi := by
  rcases paddedCell_cases x.rows x.cols u v with hzero | ⟨a, b, -, -, ha, hb, hcell⟩
  · rw [hzero x rfl rfl]
    exact ⟨hlo, hhi⟩
  · rw [hcell x rfl rfl]
    exact h a b ha hb

section
variable (h : ∀ i j, i < x.rows → j < x.cols → 0 ≤ x.get i j ∧ x.get i j ≤ 255) (i j : Nat)
include h

/-- R108 item 4: each kernel weighs its cells by 4 on either side. -/
theorem abs_kernelSum_le_of_bytes : |kernelSum kernelKx x i j| ≤ 1020 ∧ |kernelSum kernelKy x i j| ≤ 1020 := by
  have hcell := paddedCell_range le_rfl (by decide) h
  have upperLeft := hcell (i - 1) (j - 1)
  have upper := hcell (i - 1) j
  have upperRight := hcell (i - 1) (j + 1)
  have left := hcell i (j - 1)
  have right := hcell i (j + 1)
  have lowerLeft := hcell (i + 1) (j - 1)
  have lower := hcell (i + 1) j
  have lowerRight := hcell (i + 1) (j + 1)
  rw [kernelSum_kernelKx, kernelSum_kernelKy, abs_le, abs_le]
  omega

theorem cellEnergy_le_of_bytes : cellEnergy x i j ≤ 2 * 1020 ^ 2 := by
  obtain ⟨hx, hy⟩ := abs_kernelSum_le_of_bytes h i j
  have hxsq := sq_le_sq.mpr (hx.trans (le_abs_self 1020))
  have hysq := sq_le_sq.mpr (hy.trans (le_abs_self 1020))
  rw [cellEnergy]
  omega

end

/-- R108 item 2: away from the border each kernel meets no padding, and its weights add up to 0. -/
theorem cellEnergy_of_constant {c : Int} (h : ∀ i j, i < x.rows → j < x.cols → x.get i j = c) {i j : Nat}
    (hi : 1 ≤ i) (hi' : i + 2 ≤ x.rows) (hj : 1 ≤ j) (hj' : j + 2 ≤ x.cols) : cellEnergy x i j = 0 := by
  have hcell (u v : Int) (hu : i - 1 ≤ u ∧ u ≤ i + 1) (hv : j - 1 ≤ v ∧ v ≤ j + 1) : paddedCell x u v = c := by
    rw [paddedCell, if_pos (by omega)]
    exact h _ _ (by omega) (by omega)
  rw [cellEnergy, kernelSum_kernelKx, kernelSum_kernelKy]
  simp (disch := omega) only [hcell]
  ring

end

/-! ### The range checks of SOBEL (R106) -/

/-- `ConvSum(K, X)` where `X` is not empty, and the empty matrix that CONV gives where it is (R86). -/
def gradient (k x : Mat) : Mat :=
  if x.isEmpty then Mat.empty else convSum k x

/-- `Gx^2 + Gy^2` as the sequence of R108 computes it, for the empty matrix too. -/
def gradientEnergy (x : Mat) : Mat :=
  matAdd (matSquare (gradient kernelKx x)) (matSquare (gradient kernelKy x))

section
variable {x : Mat}

theorem gradient_of_empty (hx : x.isEmpty = true) (k : Mat) : gradient k x = Mat.empty :=
  if_pos hx

theorem gradient_of_nonempty (hx : x.isEmpty = false) (k : Mat) : gradient k x = convSum k x :=
  if_neg (Bool.not_eq_true _ ▸ hx)

theorem gradientEnergy_of_empty (hx : x.isEmpty = true) : gradientEnergy x = Mat.empty := by
  rw [gradientEnergy, gradient_of_empty hx, gradient_of_empty hx]
  rfl

theorem gradientEnergy_of_nonempty (hx : x.isEmpty = false) : gradientEnergy x = sobelEnergy x := by
  rw [gradientEnergy, gradient_of_nonempty hx, gradient_of_nonempty hx, sobelEnergy]

/-- The gradients have the dimensions of the source, or none. -/
theorem gradient_dims (k k' x : Mat) :
    (gradient k x).rows = (gradient k' x).rows ∧ (gradient k x).cols = (gradient k' x).cols := by
  cases hx : x.isEmpty with
  | true => simp only [gradient_of_empty hx, and_self]
  | false => rw [gradient_of_nonempty hx, gradient_of_nonempty hx]; exact ⟨rfl, rfl⟩

/-- The sum of the squares of two matrices of the same dimensions, cell by cell (R92, R93). -/
theorem isMatrix_sumOfSquares {p q : Mat} (hr : p.rows = q.rows) (hc : p.cols = q.cols) :
    IsMatrix (matAdd (matSquare p) (matSquare q)) p.rows p.cols
      fun i j => p.get i j * p.get i j + q.get i j * q.get i j := by
  obtain ⟨-, -, -, hp⟩ := isMatrix_matSquare p
  obtain ⟨-, -, -, hq⟩ := isMatrix_matSquare q
  exact (isMatrix_matAdd _ _).congr fun i j hi hj =>
    congrArg₂ (· + ·) (hp i j hi hj) (hq i j (hr ▸ hi) (hc ▸ hj))

/-- R106: the cells of the sum that SOBEL checks and takes the roots of. -/
theorem isMatrix_gradientEnergy (hx : x.isEmpty = false) :
    IsMatrix (gradientEnergy x) x.rows x.cols (cellEnergy x) := by
  rw [gradientEnergy_of_nonempty hx]
  refine (isMatrix_sumOfSquares (p := convSum kernelKx x) (q := convSum kernelKy x) rfl rfl).congr fun i j hi hj => ?_
  rw [get_convSum _ (x := x) hi hj, get_convSum _ (x := x) hi hj, cellEnergy, sq, sq]

end

theorem gradientEnergy_nonneg (x : Mat) (i j : Nat) (hi : i < (gradientEnergy x).rows)
    (hj : j < (gradientEnergy x).cols) : 0 ≤ (gradientEnergy x).get i j := by
  obtain ⟨hr, hc⟩ := gradient_dims kernelKx kernelKy x
  obtain ⟨-, -, -, hget⟩ := isMatrix_sumOfSquares hr hc
  rw [gradientEnergy, hget i j hi hj]
  exact add_nonneg (mul_self_nonneg _) (mul_self_nonneg _)

/-- R106: the result of SOBEL, cell by cell. -/
theorem isMatrix_sobelRoots {x : Mat} (hx : x.isEmpty = false) :
    IsMatrix (matIsqrt (gradientEnergy x)) x.rows x.cols fun i j => isqrt (cellEnergy x i j).toNat := by
  obtain ⟨-, hr, hc, hget⟩ := isMatrix_gradientEnergy hx
  have hroots := isMatrix_matIsqrt (gradientEnergy x)
  rw [hr, hc] at hroots
  exact hroots.congr fun i j hi hj => by rw [hget i j hi hj]

/-- R95: the root is the floor of the exact one. -/
theorem isqrt_toNat_floor {x : Int} (hx : 0 ≤ x) :
    (isqrt x.toNat : Int) ^ 2 ≤ x ∧ x < ((isqrt x.toNat : Int) + 1) ^ 2 := by
  lift x to Nat using hx
  rw [sq, sq]
  exact ⟨mod_cast isqrt_mul_self_le x, mod_cast lt_succ_isqrt_mul_self x⟩

/-- The range check of R89, for a matrix given cell by cell. -/
theorem IsMatrix.all_inRange32_iff {y : Mat} {r c : Nat} {f : Nat → Nat → Int} (hy : IsMatrix y r c f) :
    y.all inRange32 = true ↔ ∀ i j, i < r → j < c → -2147483648 ≤ f i j ∧ f i j ≤ 2147483647 := by
  obtain ⟨-, rfl, rfl, hget⟩ := hy
  rw [Mat.all_iff]
  refine forall₄_congr fun i j hi hj => ?_
  rw [hget i j hi hj, inRange32_iff]

/-- Where no square is above 2^31-1, the squares and the numbers themselves are in range. -/
theorem all_inRange32_of_square_le {p : Mat}
    (h : ∀ i j, i < p.rows → j < p.cols → p.get i j * p.get i j ≤ 2147483647) :
    p.all inRange32 = true ∧ (matSquare p).all inRange32 = true := by
  have hsquare (i j : Nat) (hi : i < p.rows) (hj : j < p.cols) :
      -2147483648 ≤ p.get i j * p.get i j ∧ p.get i j * p.get i j ≤ 2147483647 :=
    ⟨le_trans (by decide) (mul_self_nonneg _), h i j hi hj⟩
  refine ⟨(Mat.all_iff p _).mpr fun i j hi hj => ?_, (isMatrix_matSquare p).all_inRange32_iff.mpr hsquare⟩
  have habs := abs_le.mp ((mul_self_inRange_iff _).mp (hsquare i j hi hj))
  rw [inRange32_iff]
  omega

/-- R108 item 3: where all sums of two squares are in range, so are the squares and the numbers themselves. -/
theorem all_inRange32_of_sumOfSquares {p q : Mat} (hr : p.rows = q.rows) (hc : p.cols = q.cols)
    (h : (matAdd (matSquare p) (matSquare q)).all inRange32 = true) :
    (p.all inRange32 = true ∧ (matSquare p).all inRange32 = true) ∧
    (q.all inRange32 = true ∧ (matSquare q).all inRange32 = true) := by
  have hsum := (isMatrix_sumOfSquares hr hc).all_inRange32_iff.mp h
  refine ⟨all_inRange32_of_square_le fun i j hi hj => ?_, all_inRange32_of_square_le fun i j hi hj => ?_⟩
  · have := hsum i j hi hj
    have := mul_self_nonneg (q.get i j)
    omega
  · have := hsum i j (hr ▸ hi) (hc ▸ hj)
    have := mul_self_nonneg (p.get i j)
    omega

/-- The four checks that SOBEL makes before the one on `Gx^2 + Gy^2`. -/
theorem gradient_checks_of_energy {x : Mat} (h : (gradientEnergy x).all inRange32 = true) :
    ((gradient kernelKx x).all inRange32 = true ∧ (matSquare (gradient kernelKx x)).all inRange32 = true) ∧
    (gradient kernelKy x).all inRange32 = true ∧ (matSquare (gradient kernelKy x)).all inRange32 = true := by
  obtain ⟨hr, hc⟩ := gradient_dims kernelKx kernelKy x
  exact all_inRange32_of_sumOfSquares hr hc h

/-- R108 item 3: of the five range checks of R106 the one on `Gx^2 + Gy^2` decides. -/
theorem sobelResult_eq (d : BitVec 4) (x : Mat) :
    sobelResult d x =
      if (gradientEnergy x).all inRange32 then .okSlot d (matIsqrt (gradientEnergy x)) else .err .overflow := by
  cases hx : x.isEmpty with
  | true =>
    rw [gradientEnergy_of_empty hx, sobelResult, if_pos hx]
    rfl
  | false =>
    cases hall : (gradientEnergy x).all inRange32 with
    | true =>
      obtain ⟨⟨hgx, hsx⟩, hgy, hsy⟩ := gradient_checks_of_energy hall
      rw [gradient_of_nonempty hx] at hgx hsx hgy hsy
      rw [gradientEnergy_of_nonempty hx] at hall ⊢
      simp [sobelResult, hx, hgx, hgy, hsx, hsy, hall]
    | false =>
      rw [gradientEnergy_of_nonempty hx] at hall
      simp [sobelResult, hx, hall]

/-! ### SOBEL (R106) -/

section
variable {d a : BitVec 4} {s : State} (hslots : SlotsExist (.sobel d a) s)
include hslots

theorem exec_sobel_of_inRange (h : (gradientEnergy (source s a)).all inRange32 = true) :
    exec (.sobel d a) s = .next (okState d (matIsqrt (gradientEnergy (source s a))) s) := by
  rw [exec_of_slotsExist hslots, familyResult, sobelResult_eq, if_pos h, complete_okSlot]

theorem exec_sobel_of_outOfRange (h : ¬(gradientEnergy (source s a)).all inRange32 = true) :
    exec (.sobel d a) s = .next (errState 0x06 s) := by
  rw [exec_of_slotsExist hslots, familyResult, sobelResult_eq, if_neg h, complete_err]
  rfl

variable (herr : s.status.err = false)
include herr

/-- Where ERR was clear, a success shows that the check passed, and which matrix was written. -/
theorem inRange_of_exec_sobel_ok {y : Mat} (hlen : s.slots.length = s.params.numSlots)
    (h : exec (.sobel d a) s = .next (okState d y s)) :
    (gradientEnergy (source s a)).all inRange32 = true ∧ y = matIsqrt (gradientEnergy (source s a)) := by
  by_cases hall : (gradientEnergy (source s a)).all inRange32 = true
  · have hd : d.toNat < s.slots.length := hlen ▸ hslots d List.mem_cons_self
    have hstate := Host.Outcome.next.inj (h.symm.trans (exec_sobel_of_inRange hslots hall))
    exact ⟨hall, by rw [← source_okState_self hd y, hstate, source_okState_self hd]⟩
  · have hstate := Host.Outcome.next.inj (h.symm.trans (exec_sobel_of_outOfRange hslots hall))
    have hset : s.status.err = true := congrArg (fun t : State => t.status.err) hstate
    exact absurd (herr.symm.trans hset) Bool.false_ne_true

/-- Where ERR was clear, an error shows that the check failed. -/
theorem outOfRange_of_exec_sobel_err {code : BitVec 8} (h : exec (.sobel d a) s = .next (errState code s)) :
    ¬(gradientEnergy (source s a)).all inRange32 = true := by
  intro hall
  have hstate := Host.Outcome.next.inj (h.symm.trans (exec_sobel_of_inRange hslots hall))
  have hset : true = s.status.err := congrArg (fun t : State => t.status.err) hstate
  exact absurd (hset.trans herr) (by decide)

end

/-! ### Commands issued one after another (R74, R108) -/

/-- The state in which a command that completes with `Ok(d, y)` leaves the block, its issue included. -/
def afterWrite (i : Instr) (d : BitVec 4) (y : Mat) (s : State) : State :=
  okState d y (acceptCommand (encode i) s)

section
variable (i : Instr) (d : BitVec 4) (y : Mat) (s : State)

@[simp] theorem afterWrite_params : (afterWrite i d y s).params = s.params := rfl

@[simp] theorem afterWrite_slots_length : (afterWrite i d y s).slots.length = s.slots.length :=
  List.length_set

@[simp] theorem afterWrite_status_err : (afterWrite i d y s).status.err = false := rfl

@[simp] theorem source_acceptCommand (v : Word) (f : BitVec 4) : source (acceptCommand v s) f = source s f := rfl

end

theorem source_afterWrite_self {d : BitVec 4} {s : State} (h : d.toNat < s.slots.length) (i : Instr) (y : Mat) :
    source (afterWrite i d y s) d = y :=
  source_okState_self (s := acceptCommand (encode i) s) h y

theorem source_afterWrite_ne {d f : BitVec 4} (h : f ≠ d) (i : Instr) (y : Mat) (s : State) :
    source (afterWrite i d y s) f = source s f :=
  slotRead_slotWrite_ne (fun hn => h (BitVec.eq_of_toNat_eq hn.symm)) y _

/-- Issuing a command reads and writes the slots as its completion does. -/
theorem issueAndRun_eq_complete (i : Instr) (s : State) :
    issueAndRun i s =
      complete (withSlots (acceptCommand (encode i) s) i.slotOperands (familyResult i (acceptCommand (encode i) s)))
        (acceptCommand (encode i) s) := by
  rw [issueAndRun, exec_eq_complete]

theorem source_issueAndRun_of_notWritten {i : Instr} {f : BitVec 4} (h : writtenSlot i ≠ some f) (s : State) :
    source (issueAndRun i s) f = source s f := by
  rw [issueAndRun_eq_complete]
  refine slotRead_complete_ne (withSlots_writesOnly i (acceptCommand (encode i) s)) (fun d hd hn => h ?_) _
  rw [hd, BitVec.eq_of_toNat_eq hn]

/-- A slot that is the destination of no command of the sequence stays as it was. -/
theorem source_runSequence_of_notWritten {l : List Instr} {f : BitVec 4} (h : ∀ i ∈ l, writtenSlot i ≠ some f)
    (s : State) : source (runSequence l s) f = source s f := by
  induction l generalizing s with
  | nil => rfl
  | cons i rest ih =>
    obtain ⟨hi, hrest⟩ := List.forall_mem_cons.mp h
    rw [runSequence]
    split
    · exact source_issueAndRun_of_notWritten hi s
    · rw [ih hrest, source_issueAndRun_of_notWritten hi]

theorem runSequence_append (l l' : List Instr) {s : State} (h : s.status.err = false) :
    runSequence (l ++ l') s =
      if (runSequence l s).status.err then runSequence l s else runSequence l' (runSequence l s) := by
  induction l generalizing s with
  | nil => simp [runSequence, h]
  | cons i rest ih =>
    rw [List.cons_append, runSequence, runSequence]
    cases hi : (issueAndRun i s).status.err with
    | true => simp [hi]
    | false => simpa using ih hi

/-! ### Sequences that pass on or end with OVERFLOW (R108, R109) -/

/-- The last command issued ended with OVERFLOW (R109, R110). -/
def EndedWithOverflow (s : State) : Prop :=
  s.status.err = true ∧ s.status.errCode = 0x06

/-- From `s` the commands `l` all complete and leave `u` if `ok` holds, and otherwise one of them ends with OVERFLOW;
so for `l` as the beginning of any sequence. -/
def RunsTo (s : State) (l : List Instr) (ok : Prop) (u : State) : Prop :=
  ∀ rest, (ok → runSequence (l ++ rest) s = runSequence rest u) ∧
    (¬ok → EndedWithOverflow (runSequence (l ++ rest) s))

theorem RunsTo.append {s u v : State} {l l' : List Instr} {ok ok' : Prop} (h : RunsTo s l ok u)
    (h' : RunsTo u l' ok' v) : RunsTo s (l ++ l') (ok ∧ ok') v := by
  intro rest
  obtain ⟨pass, stop⟩ := h (l' ++ rest)
  obtain ⟨pass', stop'⟩ := h' rest
  rw [List.append_assoc]
  refine ⟨fun ⟨hok, hok'⟩ => (pass hok).trans (pass' hok'), fun hnot => ?_⟩
  by_cases hok : ok
  · rw [pass hok]
    exact stop' fun hok' => hnot ⟨hok, hok'⟩
  · exact stop hok

theorem RunsTo.congr {s u : State} {l : List Instr} {ok ok' : Prop} (h : RunsTo s l ok u) (hiff : ok ↔ ok') :
    RunsTo s l ok' u := by
  rwa [← propext hiff]

section
variable {i : Instr} {s : State} {d : BitVec 4} {y : Mat} (hslots : SlotsExist i s)
include hslots

theorem issueAndRun_of_slotsExist :
    issueAndRun i s = complete (familyResult i (acceptCommand (encode i) s)) (acceptCommand (encode i) s) := by
  rw [issueAndRun, exec_of_slotsExist (s := acceptCommand (encode i) s) hslots]

theorem issueAndRun_of_okSlot (h : familyResult i (acceptCommand (encode i) s) = .okSlot d y) :
    issueAndRun i s = afterWrite i d y s := by
  rw [issueAndRun_of_slotsExist hslots, h, complete_okSlot, afterWrite]

/-- A command that completes with a matrix passes on whatever its cells. -/
theorem runsTo_of_okSlot (h : familyResult i (acceptCommand (encode i) s) = .okSlot d y) :
    RunsTo s [i] True (afterWrite i d y s) := by
  refine fun rest => ⟨fun _ => ?_, fun hnot => absurd trivial hnot⟩
  rw [List.singleton_append, runSequence, issueAndRun_of_okSlot hslots h, afterWrite_status_err]
  rfl

/-- A command whose rule is one range check passes on with the matrix checked, or ends with OVERFLOW (R89). -/
theorem runsTo_of_rangeChecked (h : familyResult i (acceptCommand (encode i) s) = rangeChecked d y) :
    RunsTo s [i] (y.all inRange32 = true) (afterWrite i d y s) := by
  by_cases hin : y.all inRange32 = true
  · exact (runsTo_of_okSlot hslots (h.trans (if_pos hin))).congr (iff_of_true trivial hin)
  · have hrun : issueAndRun i s = errState 0x06 (acceptCommand (encode i) s) := by
      rw [issueAndRun_of_slotsExist hslots, h, rangeChecked, if_neg hin, complete_err]
      rfl
    refine fun rest => ⟨fun hall => absurd hall hin, fun _ => ?_⟩
    rw [List.singleton_append, runSequence, hrun]
    exact ⟨rfl, rfl⟩

end

/-! ### The sequence of R108 -/

/-- Every CONV with a kernel of odd dimensions is one range check, on an empty matrix too. -/
theorem convResult_eq_rangeChecked_gradient {k : Mat} (hk : OddShaped k) (d : BitVec 4) (x : Mat) :
    convResult d k x = rangeChecked d (gradient k x) := by
  cases hx : x.isEmpty with
  | true =>
    rw [gradient_of_empty hx, convResult, hx, Bool.or_true, if_pos rfl]
    rfl
  | false =>
    obtain ⟨hr, hc⟩ := (Mat.isEmpty_eq_false_iff x).mp hx
    rw [gradient_of_nonempty hx, convResult_of_odd hr hc hk]

/-- The state after LDK of kernel `k` into the scratch slot `u` and CONV of slot `a` by it into slot `t`. -/
def afterGradient (k t u a : BitVec 4) (kernel : Mat) (s : State) : State :=
  afterWrite (.conv t u a) t (gradient kernel (source s a)) (afterWrite (.ldk u k) u kernel s)

section
variable (k t u a : BitVec 4) (kernel : Mat) (s : State)

@[simp] theorem afterGradient_params : (afterGradient k t u a kernel s).params = s.params := rfl

@[simp] theorem afterGradient_slots_length : (afterGradient k t u a kernel s).slots.length = s.slots.length := by
  simp [afterGradient]

end

theorem source_afterGradient_self {t : BitVec 4} {s : State} (h : t.toNat < s.slots.length) (k u a : BitVec 4)
    (kernel : Mat) : source (afterGradient k t u a kernel s) t = gradient kernel (source s a) :=
  source_afterWrite_self (by rwa [afterWrite_slots_length]) _ _

theorem source_afterGradient_ne {f t u : BitVec 4} (ht : f ≠ t) (hu : f ≠ u) (k a : BitVec 4) (kernel : Mat)
    (s : State) : source (afterGradient k t u a kernel s) f = source s f := by
  rw [afterGradient, source_afterWrite_ne ht, source_afterWrite_ne hu]

/-- The state after SQR of the slots `t` and `u`, which hold `p` and `q`, and SUM of the squares into slot `t`. -/
def afterSumOfSquares (t u : BitVec 4) (p q : Mat) (s : State) : State :=
  afterWrite (.sum t t u) t (matAdd (matSquare p) (matSquare q))
    (afterWrite (.sqr u u) u (matSquare q) (afterWrite (.sqr t t) t (matSquare p) s))

section
variable {t u a : BitVec 4} {s : State} (hlen : s.slots.length = s.params.numSlots)
  (ht : t.toNat < s.params.numSlots) (hu : u.toNat < s.params.numSlots)
include hlen ht hu

/-- LDK passes always, and CONV by the kernel loaded where the gradient is in range. -/
theorem runsTo_afterGradient {k : BitVec 4} {kernel : Mat} (hk : romKernel k = some kernel) (hodd : OddShaped kernel)
    (ha : a.toNat < s.params.numSlots) (hau : a ≠ u) :
    RunsTo s [.ldk u k, .conv t u a] ((gradient kernel (source s a)).all inRange32 = true)
      (afterGradient k t u a kernel s) := by
  have hldk : RunsTo s [.ldk u k] True (afterWrite (.ldk u k) u kernel s) :=
    runsTo_of_okSlot (by simpa [SlotsExist, Instr.slotOperands] using hu) (ldkResult_of_kernel hk u)
  have hconv : RunsTo (afterWrite (.ldk u k) u kernel s) [.conv t u a]
      ((gradient kernel (source s a)).all inRange32 = true) (afterGradient k t u a kernel s) := by
    refine runsTo_of_rangeChecked (by simp [SlotsExist, Instr.slotOperands, ht, hu, ha]) ?_
    rw [familyResult, source_acceptCommand, source_acceptCommand, source_afterWrite_self (hlen ▸ hu),
      source_afterWrite_ne hau, convResult_eq_rangeChecked_gradient hodd]
  exact (hldk.append hconv).congr (by rw [true_and])

/-- The range check of SUM decides those of the two SQRs before it. -/
theorem runsTo_afterSumOfSquares {p q : Mat} (hp : source s t = p) (hq : source s u = q) (hr : p.rows = q.rows)
    (hc : p.cols = q.cols) (hne : t ≠ u) :
    RunsTo s [.sqr t t, .sqr u u, .sum t t u] ((matAdd (matSquare p) (matSquare q)).all inRange32 = true)
      (afterSumOfSquares t u p q s) := by
  have hsqr : RunsTo s [.sqr t t] ((matSquare p).all inRange32 = true) (afterWrite (.sqr t t) t (matSquare p) s) := by
    refine runsTo_of_rangeChecked (by simpa [SlotsExist, Instr.slotOperands] using ht) ?_
    rw [familyResult, source_acceptCommand, hp, sqrResult]
  have hsqr' : RunsTo (afterWrite (.sqr t t) t (matSquare p) s) [.sqr u u] ((matSquare q).all inRange32 = true)
      (afterWrite (.sqr u u) u (matSquare q) (afterWrite (.sqr t t) t (matSquare p) s)) := by
    refine runsTo_of_rangeChecked (by simpa [SlotsExist, Instr.slotOperands] using hu) ?_
    rw [familyResult, source_acceptCommand, source_afterWrite_ne hne.symm, hq, sqrResult]
  have hsum : RunsTo (afterWrite (.sqr u u) u (matSquare q) (afterWrite (.sqr t t) t (matSquare p) s)) [.sum t t u]
      ((matAdd (matSquare p) (matSquare q)).all inRange32 = true) (afterSumOfSquares t u p q s) := by
    refine runsTo_of_rangeChecked (by simp [SlotsExist, Instr.slotOperands, ht, hu]) ?_
    rw [familyResult, source_acceptCommand, source_acceptCommand, source_afterWrite_ne hne,
      source_afterWrite_self (hlen ▸ ht), source_afterWrite_self (by simpa [hlen] using hu),
      sumResult_of_match (p := matSquare p) (q := matSquare q) hr hc]
  refine (hsqr.append (hsqr'.append hsum)).congr ⟨fun ⟨_, _, h⟩ => h, fun h => ?_⟩
  obtain ⟨⟨-, hpp⟩, -, hqq⟩ := all_inRange32_of_sumOfSquares hr hc h
  exact ⟨hpp, hqq, h⟩

end

/-- The sequence of R108 item 1 up to the matrix of which it takes the roots. -/
def energySequence (a t1 t2 t3 : BitVec 4) : List Instr :=
  [.ldk t1 0, .conv t2 t1 a, .ldk t1 1, .conv t3 t1 a, .sqr t2 t2, .sqr t3 t3, .sum t2 t2 t3]

theorem sobelSequence_eq_append (d a t1 t2 t3 : BitVec 4) :
    sobelSequence d a t1 t2 t3 = energySequence a t1 t2 t3 ++ [.isqrt d t2] := rfl

/-- The state in which `energySequence` leaves the block. -/
def afterEnergy (a t1 t2 t3 : BitVec 4) (s : State) : State :=
  afterSumOfSquares t2 t3 (gradient kernelKx (source s a)) (gradient kernelKy (source s a))
    (afterGradient 1 t3 t1 a kernelKy (afterGradient 0 t2 t1 a kernelKx s))

section
variable (a t1 t2 t3 : BitVec 4) (s : State)

@[simp] theorem afterEnergy_params : (afterEnergy a t1 t2 t3 s).params = s.params := by
  simp [afterEnergy, afterSumOfSquares]

@[simp] theorem afterEnergy_slots_length : (afterEnergy a t1 t2 t3 s).slots.length = s.slots.length := by
  simp [afterEnergy, afterSumOfSquares]

end

section
variable {d a t1 t2 t3 : BitVec 4} {s : State} (hlen : s.slots.length = s.params.numSlots)
  (hslots : ∀ f ∈ [d, a, t1, t2, t3], f.toNat < s.params.numSlots)
  (h12 : t1 ≠ t2) (h23 : t2 ≠ t3) (hscratch : ∀ t ∈ [t1, t2, t3], t ≠ a ∧ t ≠ d)
include hlen hslots h12 h23 hscratch

/-- R108 item 1: the sequence passes exactly SOBEL's own check. -/
theorem runsTo_afterEnergy :
    RunsTo s (energySequence a t1 t2 t3) ((gradientEnergy (source s a)).all inRange32 = true)
      (afterEnergy a t1 t2 t3 s) := by
  simp only [List.forall_mem_cons] at hslots hscratch
  obtain ⟨-, ha, ht1, ht2, ht3, -⟩ := hslots
  obtain ⟨⟨h1a, -⟩, ⟨h2a, -⟩, ⟨h3a, -⟩, -⟩ := hscratch
  obtain ⟨hr, hc⟩ := gradient_dims kernelKx kernelKy (source s a)
  have hgx := runsTo_afterGradient (k := 0) hlen ht2 ht1 rfl oddShaped_kernelKx ha h1a.symm
  have hgy := runsTo_afterGradient (s := afterGradient 0 t2 t1 a kernelKx s) (k := 1) (by simpa using hlen) ht3 ht1
    rfl oddShaped_kernelKy ha h1a.symm
  have hx : source (afterGradient 1 t3 t1 a kernelKy (afterGradient 0 t2 t1 a kernelKx s)) t2 =
      gradient kernelKx (source s a) := by
    rw [source_afterGradient_ne h23 h12.symm, source_afterGradient_self (hlen ▸ ht2)]
  have hy : source (afterGradient 1 t3 t1 a kernelKy (afterGradient 0 t2 t1 a kernelKx s)) t3 =
      gradient kernelKy (source s a) := by
    rw [source_afterGradient_self (by simpa [hlen] using ht3), source_afterGradient_ne h2a.symm h1a.symm]
  have hsum := runsTo_afterSumOfSquares (s := afterGradient 1 t3 t1 a kernelKy (afterGradient 0 t2 t1 a kernelKx s))
    (by simpa using hlen) ht2 ht3 hx hy hr hc h23
  rw [source_afterGradient_ne h2a.symm h1a.symm] at hgy
  refine (hgx.append (hgy.append hsum)).congr ⟨fun ⟨_, _, h⟩ => h, fun h => ?_⟩
  obtain ⟨⟨hinx, -⟩, hiny, -⟩ := gradient_checks_of_energy h
  exact ⟨hinx, hiny, h⟩

/-- Where the check passes, ISQRT ends the sequence with SOBEL's result. -/
theorem runSequence_sobelSequence_of_inRange (h : (gradientEnergy (source s a)).all inRange32 = true) :
    runSequence (sobelSequence d a t1 t2 t3) s =
      afterWrite (.isqrt d t2) d (matIsqrt (gradientEnergy (source s a))) (afterEnergy a t1 t2 t3 s) := by
  obtain ⟨pass, -⟩ := runsTo_afterEnergy hlen hslots h12 h23 hscratch [.isqrt d t2]
  simp only [List.forall_mem_cons] at hslots
  obtain ⟨hd, -, -, ht2, -, -⟩ := hslots
  have hsource : source (afterEnergy a t1 t2 t3 s) t2 = gradientEnergy (source s a) :=
    source_afterWrite_self (by simpa [hlen] using ht2) _ _
  have hrule : familyResult (.isqrt d t2) (acceptCommand (encode (.isqrt d t2)) (afterEnergy a t1 t2 t3 s)) =
      .okSlot d (matIsqrt (gradientEnergy (source s a))) := by
    rw [familyResult, source_acceptCommand, hsource, isqrtResult_of_nonneg (gradientEnergy_nonneg _)]
  obtain ⟨pass', -⟩ := runsTo_of_okSlot (s := afterEnergy a t1 t2 t3 s)
    (by simp [SlotsExist, Instr.slotOperands, hd, ht2]) hrule []
  rw [sobelSequence_eq_append, pass h]
  exact pass' trivial

/-- Where it fails, one of the commands before ISQRT ends with OVERFLOW, and none of them writes slot `d`. -/
theorem runSequence_sobelSequence_of_outOfRange (herr : s.status.err = false)
    (h : ¬(gradientEnergy (source s a)).all inRange32 = true) :
    EndedWithOverflow (runSequence (sobelSequence d a t1 t2 t3) s) ∧
      source (runSequence (sobelSequence d a t1 t2 t3) s) d = source s d := by
  obtain ⟨-, stop⟩ := runsTo_afterEnergy hlen hslots h12 h23 hscratch []
  have hended := stop h
  rw [List.append_nil] at hended
  have hrun : runSequence (sobelSequence d a t1 t2 t3) s = runSequence (energySequence a t1 t2 t3) s := by
    obtain ⟨hset, -⟩ := hended
    rw [sobelSequence_eq_append, runSequence_append _ _ herr, if_pos hset]
  rw [hrun]
  refine ⟨hended, source_runSequence_of_notWritten ?_ s⟩
  simp only [List.forall_mem_cons] at hscratch
  obtain ⟨⟨-, h1d⟩, ⟨-, h2d⟩, ⟨-, h3d⟩, -⟩ := hscratch
  simp [energySequence, writtenSlot, h1d, h2d, h3d]

end

/-! ### The statements -/

/-- Settles O38: the check on `Gx^2 + Gy^2` decides, and each root is the one of R95. -/
theorem sobelComputesMagnitudes : Obligations.SobelComputesMagnitudes := by
  refine ⟨fun w => and_maskWord_eq_matchWord_iff_decode (i := .sobel 0 0), fun d a s hslots =>
    ⟨fun hempty => ?_, fun hr hc => ?_⟩⟩
  · have henergy := gradientEnergy_of_empty ((Mat.isEmpty_iff _).mpr hempty)
    rw [exec_sobel_of_inRange hslots (by rw [henergy]; rfl), henergy]
    rfl
  · have hne := (Mat.isEmpty_eq_false_iff _).mpr ⟨hr, hc⟩
    have hcells := isMatrix_gradientEnergy hne
    refine ⟨fun ⟨i, j, hi, hj, hbig⟩ => exec_sobel_of_outOfRange hslots fun hall => ?_, fun hle => ?_⟩
    · obtain ⟨-, hsmall⟩ := hcells.all_inRange32_iff.mp hall i j hi hj
      exact absurd hbig hsmall.not_gt
    · have hall := hcells.all_inRange32_iff.mpr fun i j hi hj =>
        ⟨le_trans (by decide) (cellEnergy_nonneg _ i j), hle i j hi hj⟩
      obtain ⟨hshape, hyr, hyc, hroot⟩ := isMatrix_sobelRoots hne
      refine ⟨_, exec_sobel_of_inRange hslots hall, hshape, hyr, hyc, fun i j hi hj => ?_⟩
      rw [hroot i j (hyr ▸ hi) (hyc ▸ hj)]
      exact ⟨Int.natCast_nonneg _, isqrt_toNat_floor (cellEnergy_nonneg _ i j)⟩

/-- Settles O39: the sequence passes exactly SOBEL's check, and ends with SOBEL's matrix or before its last command. -/
theorem sobelIsItsCommandSequence : Obligations.SobelIsItsCommandSequence := by
  intro d a t1 t2 t3 s herr hlen hslots h12 _ h23 hscratch
  have hsobel : SlotsExist (.sobel d a) s := fun f hf => hslots f (List.mem_append_left [t1, t2, t3] hf)
  refine ⟨fun y hexec => ?_, fun hexec => ?_⟩
  · obtain ⟨hall, rfl⟩ := inRange_of_exec_sobel_ok hsobel herr hlen hexec
    have hrun := runSequence_sobelSequence_of_inRange hlen hslots h12 h23 hscratch hall
    have hd : d.toNat < (afterEnergy a t1 t2 t3 s).slots.length := by
      simpa [hlen] using hslots d List.mem_cons_self
    refine ⟨?_, by rw [hrun, afterWrite_status_err], fun f hfd h1 h2 h3 => source_runSequence_of_notWritten ?_ s⟩
    · rw [hrun, source_afterWrite_self hd]
    · simp [sobelSequence, writtenSlot, hfd.symm, h1.symm, h2.symm, h3.symm]
  · have hall := outOfRange_of_exec_sobel_err hsobel herr hexec
    obtain ⟨⟨hset, hcode⟩, hkept⟩ :=
      runSequence_sobelSequence_of_outOfRange hlen hslots h12 h23 hscratch herr hall
    exact ⟨hset, hcode, hkept⟩

/-- Settles O40: inside a constant matrix both gradients are 0, and so is the root of their squares. -/
theorem sobelOfConstantIsZeroInside : Obligations.SobelOfConstantIsZeroInside := by
  intro d a s y c hslots hlen herr hr hc hconst hexec i j hi hi' hj hj'
  obtain ⟨-, rfl⟩ := inRange_of_exec_sobel_ok hslots herr hlen hexec
  obtain ⟨-, -, -, hroot⟩ := isMatrix_sobelRoots ((Mat.isEmpty_eq_false_iff (source s a)).mpr (by omega))
  simp only [hroot i j (by omega) (by omega), cellEnergy_of_constant hconst hi hi' hj hj']
  rfl

/-- Settles O41: O38 with a sum of at most `2 * 1020^2`, which is below 1443^2. -/
theorem sobelOfBytesNeverOverflows : Obligations.SobelOfBytesNeverOverflows := by
  intro d a s hslots hr hc hbytes
  have hle := cellEnergy_le_of_bytes hbytes
  obtain ⟨-, hsobel⟩ := sobelComputesMagnitudes
  obtain ⟨-, hnonempty⟩ := hsobel d a s hslots
  obtain ⟨-, hok⟩ := hnonempty hr hc
  obtain ⟨y, hexec, -, hyr, hyc, hroot⟩ := hok fun i j _ _ => (hle i j).trans (by decide)
  refine ⟨y, hexec, hyr, hyc, fun i j hi hj => ?_⟩
  obtain ⟨hnonneg, hsq, -⟩ := hroot i j hi hj
  have hlt : y.get i j ^ 2 < 1443 ^ 2 := (hsq.trans (hle i j)).trans_lt (by decide)
  exact ⟨hnonneg, Int.lt_add_one_iff.mp (lt_of_pow_lt_pow_left₀ 2 (by decide) hlt)⟩

/-- Settles O37: field A selects a kernel or none, and only field D is checked as a slot. -/
theorem ldkLoadsRomKernels : Obligations.LdkLoadsRomKernels := by
  refine ⟨fun w => and_maskWord_eq_matchWord_iff_decode (i := .ldk 0 0), fun d k s hslots =>
    ⟨fun h => exec_ldk_of_kernel hslots (romKernel_of_zero h),
      fun h => exec_ldk_of_kernel hslots (romKernel_of_one h), fun h => ?_⟩⟩
  rw [exec_of_slotsExist hslots, familyResult, ldkResult_of_none (romKernel_of_two_le h), complete_err]
  rfl

/-- Settles O42: HOUGH names no destination, and its family rule is the error. -/
theorem houghReportsNotImplemented : Obligations.HoughReportsNotImplemented := by
  refine ⟨fun w => and_maskWord_eq_matchWord_iff_decode (i := .hough 0 0), fun d a s hslots =>
    exec_of_slotsExist hslots, fun d a s t ht => ?_⟩
  obtain rfl := exec_next_iff.mp ht
  rcases withSlots_cases s (Instr.hough d a).slotOperands (familyResult (.hough d a) s) with h | h
  · rw [h]; rfl
  · rw [h]; rfl

end Sys2Proof.Machine

/-! Exceptions (60_exceptions.md): the error codes of each command, and when the interrupt output falls and rises. -/

namespace Sys2Proof.Machine

/-! ### The errors a command may end with (R109, R111) -/

/-- The command errors that `exec` of each command raises: those of its family rule, and BAD_SLOT first where the command
reads a slot field at all (R80, R81). -/
def commandErrors (i : Instr) : List CmdError :=
  match i.slotOperands with
  | [] => familyErrors i
  | _ :: _ => .badSlot :: familyErrors i

theorem familyErrors_subset_commandErrors (i : Instr) : familyErrors i ⊆ commandErrors i := by
  unfold commandErrors
  split
  · exact List.Subset.refl _
  · exact List.subset_cons_self _ _

/-- R81: the check fails on a field that is read as a slot, so there is such a field. -/
theorem badSlot_mem_commandErrors {i : Instr} {s : State} (h : slotFieldBad s i.slotOperands = true) :
    .badSlot ∈ commandErrors i := by
  unfold commandErrors
  split
  · next hnil => simp [hnil, slotFieldBad] at h
  · exact List.mem_cons_self

/-- Behind the BAD_SLOT check, a command's error is one of its own (R80, R111). -/
theorem mem_commandErrors_of_withSlots_eq_err {i : Instr} {s : State} {e : CmdError}
    (h : withSlots s i.slotOperands (familyResult i s) = .err e) : e ∈ commandErrors i := by
  unfold withSlots at h
  split at h
  · next hbad =>
    obtain rfl := CmdResult.err.inj h
    exact badSlot_mem_commandErrors hbad
  · have hends := familyResult_ends i s
    rw [h] at hends
    exact familyErrors_subset_commandErrors i hends

/-- R76, R110: a command that sets ERR where it was clear leaves the code of one of its errors in ERRCODE. -/
theorem exists_mem_commandErrors_of_exec {i : Instr} {s t : State} (ht : exec i s = .next t)
    (h0 : s.status.err = false) (h1 : t.status.err = true) :
    ∃ e ∈ commandErrors i, cmdErrorCode e = t.status.errCode := by
  obtain rfl := exec_next_iff.mp ht
  obtain ⟨e, he⟩ := exists_err_of_complete_err h0 h1
  refine ⟨e, mem_commandErrors_of_withSlots_eq_err he, ?_⟩
  rw [he]
  rfl

/-- Settles O16: the listed numbers are the codes of the command's errors, in the order of R109. -/
theorem errorsOfEachCommand : Obligations.ErrorsOfEachCommand := by
  intro i s t ht h0 h1
  obtain ⟨e, he, hcode⟩ := exists_mem_commandErrors_of_exec ht h0 h1
  have hmem : t.status.errCode.toNat ∈ (commandErrors i).map fun e => (cmdErrorCode e).toNat :=
    List.mem_map.mpr ⟨e, he, congrArg BitVec.toNat hcode⟩
  cases i <;> exact hmem

/-! ### IRQ (R113, R114) -/

theorem irq_eq_true_iff (s : State) :
    irq s = true ↔ s.ctrl.irqEn = true ∧ (s.status.done = true ∨ s.status.err = true) := by
  rw [irq, Bool.and_eq_true, Bool.or_eq_true]

theorem irq_of_disabled {s : State} (h : s.ctrl.irqEn = false) : irq s = false := by
  rw [irq, h, Bool.false_and]

theorem irq_of_not_done_not_err {s : State} (hdone : s.status.done = false) (herr : s.status.err = false) :
    irq s = false := by
  rw [irq, hdone, herr, Bool.or_self, Bool.and_false]

/-- R25: a bit that is clear, or that is written 1, is 0 after the write. -/
theorem and_not_eq_false {bit clear : Bool} (h : bit = true → clear = true) : (bit && !clear) = false := by
  cases bit with
  | false => rfl
  | true => rw [h rfl]; rfl

theorem irq_writeStatus {v : Word} {s : State} (hdone : s.status.done = true → v.getLsbD 1 = true)
    (herr : s.status.err = true → v.getLsbD 2 = true) : irq (writeStatus v s) = false :=
  irq_of_not_done_not_err (and_not_eq_false hdone) (and_not_eq_false herr)

/-- R74: acceptance clears DONE and ERR. -/
theorem irq_acceptCommand (v : Word) (s : State) : irq (acceptCommand v s) = false :=
  irq_of_not_done_not_err rfl rfl

/-- R123: a CTRL write with SOFT_RESET set lowers IRQ, whatever its bit 0. -/
theorem irq_writeCtrl_of_softReset {v : Word} (hv : v.getLsbD 2 = true) (s : State) : irq (writeCtrl v s) = false := by
  rw [writeCtrl_of_set hv]
  exact irq_resetRegisters s

/-- With IRQ_EN written 0 the bit is 0 after the write, and after the soft reset too. -/
theorem irq_writeCtrl_of_disable {v : Word} (hv : v.getLsbD 0 = false) (s : State) : irq (writeCtrl v s) = false := by
  cases hreset : v.getLsbD 2 with
  | true => exact irq_writeCtrl_of_softReset hreset s
  | false =>
    rw [writeCtrl_of_clear hreset]
    exact irq_of_disabled hv

theorem irq_writeCtrl_of_enable {v : Word} {s : State} (hreset : v.getLsbD 2 = false) (hv : v.getLsbD 0 = true)
    (hst : s.status.done = true ∨ s.status.err = true) : irq (writeCtrl v s) = true := by
  rw [writeCtrl_of_clear hreset, irq_eq_true_iff]
  exact ⟨hv, hst⟩

/-- R75, R76, R80: the step of the enabled Engine is the completion of some result, for a legal word or not. -/
theorem exists_complete_of_engineTurn {s t : State} (hb : s.status.busy = true) (ht : engineTurn s = .next t) :
    ∃ r, t = complete r s := by
  cases hd : decode s.pendWord with
  | command i =>
    rw [engineTurn_command hb hd] at ht
    exact ⟨_, exec_next_iff.mp ht⟩
  | illegal why =>
    rw [engineTurn_illegal hb hd] at ht
    exact ⟨.err .illegalOpcode, (Host.Outcome.next.inj ht).symm⟩

/-- R76: every completion sets DONE or ERR. -/
theorem complete_status_done_or_err (r : CmdResult) (s : State) :
    (complete r s).status.done = true ∨ (complete r s).status.err = true := by
  cases r with
  | okSlot d x => exact .inl rfl
  | okNone => exact .inl rfl
  | err e => exact .inr rfl

/-- R114: IRQ rises when the Engine's step completes under IRQ_EN, which completion leaves as it is. -/
theorem irq_engineTurn {s t : State} (hb : s.status.busy = true) (hen : s.ctrl.irqEn = true)
    (ht : engineTurn s = .next t) : irq t = true := by
  obtain ⟨r, rfl⟩ := exists_complete_of_engineTurn hb ht
  rw [irq_eq_true_iff, complete_ctrl]
  exact ⟨hen, complete_status_done_or_err r s⟩

/-- Settles O60: each Host access is its register's write, and each clause is the write's or the Engine's effect on IRQ. -/
theorem irqFallsAndRises : Obligations.IrqFallsAndRises := by
  intro s
  refine ⟨irq_eq_true_iff s, fun v hdone herr => ?_, fun v hv => ?_, fun v hb => ?_, fun v hv => ?_, irq_hardReset s,
    fun t => irq_engineTurn, fun v hreset hv hst => ?_⟩
  · rw [hostAccess_writeStatus]
    exact irq_writeStatus hdone herr
  · rw [hostAccess_writeCtrl]
    exact irq_writeCtrl_of_disable hv s
  · rw [hostAccess_writeCmd_idle hb]
    exact irq_acceptCommand v s
  · rw [hostAccess_writeCtrl]
    exact irq_writeCtrl_of_softReset hv s
  · rw [hostAccess_writeCtrl]
    exact irq_writeCtrl_of_enable hreset hv hst

end Sys2Proof.Machine

/-! The BUSY guard (70_reset_and_hazards.md R125): the registers by the check that their accesses meet while a command is
pending, and that no other access is refused with BUSY. -/

namespace Sys2Proof.Machine

/-! ### The registers of the window, by offset (R19) -/

/-- The registers in the order of their offsets. -/
def windowRegs : List Reg :=
  [.id, .cfgDim, .cfgMisc, .bmpCap, .ctrl, .status, .cmd, .slotSel, .slotRows, .slotCols, .cellAddr, .cellData, .bmpLen,
    .bmpAddr, .bmpData]

theorem mem_windowRegs (r : Reg) : r ∈ windowRegs := by
  cases r <;> decide

/-- A list of offsets that is the window's, cut down by a check on the register, stands for the registers that meet it. -/
theorem forall_mem_offsets_iff (check : Reg → Bool) {offs : List (BitVec 6)}
    (hoffs : (windowRegs.filter check).map regOffset = offs) {P : BitVec 6 → Prop} :
    (∀ off ∈ offs, P off) ↔ ∀ r, check r = true → P (regOffset r) := by
  subst hoffs
  simp only [List.forall_mem_map, List.mem_filter, mem_windowRegs, true_and]

/-- R48, R125: the writes that a pending command refuses with BUSY, for a register that can be written. -/
def busyWrite (r : Reg) : Bool :=
  !readOnly r && guarded .write r

/-- R125: the writes that a pending command leaves to the register's own rule. -/
def freeWrite (r : Reg) : Bool :=
  !readOnly r && !guarded .write r

theorem busyWrite_iff (r : Reg) : busyWrite r = true ↔ readOnly r = false ∧ guarded .write r = true := by
  simp [busyWrite]

theorem freeWrite_iff (r : Reg) : freeWrite r = true ↔ readOnly r = false ∧ guarded .write r = false := by
  simp [freeWrite]

/-! ### What one access of each sort comes to -/

section
variable {r : Reg} {s : State}

theorem hostAccess_readAt_guarded_busy (hg : guarded .read r = true) (hb : s.status.busy = true) :
    hostAccess (readAt (regOffset r)) s = refusedState .read 0x01 s := by
  rw [hostAccess_readAt, if_pos ⟨hb, hg⟩]

/-- Only the guarded window registers CELL_DATA and BMP_DATA have a read that can fail (R51, R52). -/
theorem exists_readReg_ok (hg : guarded .read r = false) (s : State) : ∃ w, readReg r s = .ok w := by
  cases r with
  | slotRows | slotCols | cellData | bmpData => cases hg
  | id | cfgDim | cfgMisc | bmpCap | ctrl | status | cmd | slotSel | cellAddr | bmpLen | bmpAddr => exact ⟨_, rfl⟩

theorem exists_hostAccess_readAt_ok (hg : guarded .read r = false) (s : State) :
    ∃ w, hostAccess (readAt (regOffset r)) s = readState w s := by
  obtain ⟨w, hr⟩ := exists_readReg_ok hg s
  exact ⟨w, hostAccess_readAt_ok (fun _ => hg) hr⟩

/-- The rules of the registers refuse with RANGE, VALUE or ACCESS (R48, R50 to R52): BUSY is the guard's alone. -/
theorem writeReg_ne_busy (r : Reg) (v : Word) (s : State) : writeReg r v s ≠ .error .busy := by
  cases r with
  | id | cfgDim | cfgMisc | bmpCap | ctrl | status | cmd | cellAddr | bmpAddr => exact nofun
  | slotSel | slotRows | slotCols | cellData | bmpLen | bmpData =>
    simp only [writeReg, writeSlotSel, writeSlotRows, writeSlotCols, writeCellData, writeBmpLen, writeBmpData]
    split <;> exact nofun

theorem hostErrorCode_eq_busy_iff (e : HostError) : hostErrorCode e = 0x01 ↔ e = .busy := by
  cases e <;> decide

/-- A write that meets no guard does not record BUSY: the code is as it was, or cleared, or that of another error. -/
theorem hostErrCode_of_freeWrite (hro : readOnly r = false) (hg : guarded .write r = false) {v : Word}
    (hcode : (hostAccess (writeAt (regOffset r) v) s).status.hostErrCode = 0x01) : s.status.hostErrCode = 0x01 := by
  cases hw : writeReg r v s with
  | ok t =>
    rw [hostAccess_writeAt_ok hro (fun _ => hg) hw] at hcode
    obtain ⟨-, hsame | hcleared⟩ := writeReg_ok_reads_hostErrCode hw
    · exact hsame.symm.trans hcode
    · exact absurd (hcleared.symm.trans hcode) (by decide)
  | error e =>
    rw [hostAccess_writeAt_error hro (fun _ => hg) hw] at hcode
    obtain rfl := (hostErrorCode_eq_busy_iff e).mp hcode
    exact absurd hw (writeReg_ne_busy r v s)

end

/-- Settles O54: each list of offsets is the registers of one check, and the check decides the access. -/
theorem busyGuardRefusesGuardedAccesses : Obligations.BusyGuardRefusesGuardedAccesses := by
  intro v s hb
  refine ⟨(forall_mem_offsets_iff busyWrite rfl).mpr fun r hr => ?_,
    (forall_mem_offsets_iff (guarded .read) rfl).mpr fun r hg => hostAccess_readAt_guarded_busy hg hb,
    (forall_mem_offsets_iff (!guarded .read ·) rfl).mpr fun r hg => ?_,
    (forall_mem_offsets_iff freeWrite rfl).mpr fun r hr => ?_⟩
  · obtain ⟨hro, hg⟩ := (busyWrite_iff r).mp hr
    exact hostAccess_writeAt_guarded_busy hro hg hb v
  · exact exists_hostAccess_readAt_ok (by simpa using hg) s
  · obtain ⟨hro, hg⟩ := (freeWrite_iff r).mp hr
    exact hostErrCode_of_freeWrite hro hg

end Sys2Proof.Machine

/-! The progress of an execution (20_memory.md section 8, 40_command_lifecycle.md sections 1 and 2): every turn answers a
next state, which carries the same parameters and the same list of turns, and the Engine's turn leaves no command pending. -/

namespace Sys2Proof.Machine

/-! ### A Host access leaves the parameters and the listed turns as they are (R13, R59) -/

theorem writeReg_ok_params_turns {s t : State} {r : Reg} {v : Word} (hw : writeReg r v s = .ok t) :
    t.params = s.params ∧ t.turns = s.turns := by
  cases r with
  | id | cfgDim | cfgMisc | bmpCap => cases hw
  | ctrl =>
    cases hw
    cases hv : v.getLsbD 2 with
    | false =>
      rw [writeCtrl_of_clear hv]
      exact ⟨rfl, rfl⟩
    | true =>
      rw [writeCtrl_of_set hv]
      exact ⟨softReset_params s, softReset_turns s⟩
  | status | cmd | cellAddr | bmpAddr =>
    cases hw
    exact ⟨rfl, rfl⟩
  | slotSel | slotRows | slotCols | cellData | bmpLen | bmpData =>
    simp only [writeReg, writeSlotSel, writeSlotRows, writeSlotCols, writeCellData, writeBmpLen, writeBmpData] at hw
    split at hw <;> cases hw
    exact ⟨rfl, rfl⟩

theorem hostAccess_params_turns (a : Access) (s : State) :
    (hostAccess a s).params = s.params ∧ (hostAccess a s).turns = s.turns := by
  rcases hostAccess_cases a s with ⟨e, heq⟩ | ⟨r, v, -, -, -, heq⟩ | ⟨r, t, -, -, hw, heq⟩ <;> rw [heq]
  · exact ⟨refuseAccess_params a e s, refuseAccess_turns a e s⟩
  · exact ⟨returnToHost_params v s, returnToHost_turns v s⟩
  · exact writeReg_ok_params_turns hw

theorem busAccess_params_turns (a : BusAccess) (s : State) :
    (busAccess a s).params = s.params ∧ (busAccess a s).turns = s.turns := by
  rcases busAccess_cases a s with ⟨-, -, heq⟩ | ⟨-, heq⟩ <;> rw [heq]
  · exact hostAccess_params_turns _ s
  · exact ⟨rfl, rfl⟩

/-! ### Every turn answers a next state -/

/-- R75, R76, R80: a pending word, legal or not, ends with the completion of some result. -/
theorem exists_engineTurn_eq_complete {s : State} (hb : s.status.busy = true) :
    ∃ r, engineTurn s = .next (complete r s) := by
  cases hd : decode s.pendWord with
  | command i => exact ⟨_, (engineTurn_command hb hd).trans (exec_eq_complete i s)⟩
  | illegal why => exact ⟨.err .illegalOpcode, engineTurn_illegal hb hd⟩

/-- R75, R121: the Engine's turn completes the pending command, or finds the block idle and changes nothing. -/
theorem exists_engineTurn_next (s : State) :
    ∃ t, engineTurn s = .next t ∧ t.status.busy = false ∧ t.params = s.params ∧ t.turns = s.turns := by
  cases hb : s.status.busy with
  | false => exact ⟨s, engineTurn_idle hb, hb, rfl, rfl⟩
  | true =>
    obtain ⟨r, ht⟩ := exists_engineTurn_eq_complete hb
    exact ⟨complete r s, ht, complete_status_busy r s, complete_params r s, complete_turns r s⟩

theorem exists_takeTurn_next (turn : Turn) (s : State) :
    ∃ t, takeTurn turn s = .next t ∧ t.params = s.params ∧ t.turns = s.turns := by
  cases turn with
  | host a => exact ⟨busAccess a s, rfl, busAccess_params_turns a s⟩
  | hardReset => exact ⟨hardReset s, rfl, hardReset_params s, hardReset_turns s⟩
  | engine =>
    obtain ⟨t, ht, -, hkept⟩ := exists_engineTurn_next s
    exact ⟨t, ht, hkept⟩

/-! ### The statements -/

/-- Settles O9: a step is one turn, taken with the list already shortened by it. -/
theorem everyStepAnswersNext : Obligations.EveryStepAnswersNext := by
  intro s
  cases hturns : s.turns with
  | nil =>
    obtain ⟨t, ht, -, hparams, hkept⟩ := exists_engineTurn_next s
    exact ⟨t, (step_nil hturns).trans ht, hparams, hkept.trans hturns⟩
  | cons turn rest =>
    obtain ⟨t, ht, hkept⟩ := exists_takeTurn_next turn { s with turns := rest }
    exact ⟨t, (step_cons hturns).trans ht, hkept⟩

/-- Settles O10, by induction on the listed turns: each step uses one up, and the step after the last is the Engine's,
which leaves BUSY at 0. -/
theorem noCommandPendingAfterListedTurns : Obligations.NoCommandPendingAfterListedTurns := by
  intro s
  induction hturns : s.turns generalizing s with
  | nil =>
    obtain ⟨t, ht, hidle, -, hkept⟩ := exists_engineTurn_next s
    exact ⟨t, run_of_next ((step_nil hturns).trans ht) 0, hidle, hkept.trans hturns⟩
  | cons turn rest ih =>
    obtain ⟨t, ht, -, htail⟩ := everyStepAnswersNext s
    rw [hturns, List.tail_cons] at htail
    obtain ⟨u, hrun, hdone⟩ := ih t htail
    exact ⟨u, (run_of_next ht _).trans hrun, hdone⟩

/-- The step after `withFetchWord` is the Engine's turn on the state that an accepted CMD write leaves (log entry 6). -/
theorem step_withFetchWord (s : State) (w : Word) :
    step (s.withFetchWord 32 w.toNat) = engineTurn (acceptCommand w s) := by
  have hw : BitVec.ofNat 32 (w.toNat % 2 ^ 32) = w := by
    rw [Nat.mod_eq_of_lt w.isLt, BitVec.ofNat_toNat, BitVec.setWidth_eq]
  rw [State.withFetchWord, hw, step_cons (bringCommand_turns w s)]
  rfl

/-- R74: an accepted CMD write sets BUSY whatever it was before. -/
theorem acceptCommand_ignores_busy (w : Word) (s : State) :
    acceptCommand w { s with status := { s.status with busy := false } } = acceptCommand w s := rfl

/-- Settles O8: the accepted CMD write leaves the word pending, and the Engine's turn runs what it spells. -/
theorem fetchedWordRunsNext : Obligations.FetchedWordRunsNext := by
  intro s w i hd
  rw [step_withFetchWord, hostAccess_writeCmd_idle rfl, acceptCommand_ignores_busy]
  exact engineTurn_command rfl hd

/-- Settles O59: every value is a field of `State.resetOf` at the default parameters, and IRQ is disabled there. -/
theorem resetValues : Obligations.ResetValues :=
  ⟨rfl, rfl, rfl, rfl, rfl, rfl, rfl, rfl, rfl, irq_of_disabled rfl⟩

end Sys2Proof.Machine
